-- ==== Sys2Proof/Word.lean ====
section
/-! DEFINITION. The word types of the AFSK modem core (spec/00_scope.md R11: a value of width N is a bit
vector whose bit 0 is the least significant). A one-bit register is a `Bool`, true for 1. -/

namespace Sys2Proof

/-- `u8`: a byte of a queue, an output sample, the status word (R87). -/
abbrev Byte := BitVec 8

/-- `s8`: an input sample as its two's-complement pattern (R83, R86, R87). -/
abbrev Sample := BitVec 8

/-- `s16`: a filter cell as its two's-complement pattern (R32, R33). -/
abbrev S16 := BitVec 16

/-- A 20-bit operation word `{op[19:16], operand[15:0]}` (R80). -/
abbrev OpWord := BitVec 20

end Sys2Proof
end

