-- ==== Sys2Proof/Machine/Constants.lean ====
section
/-! DEFINITION. The constants the spec fixes (spec/00_scope.md R6, R7; spec/92_eei_decisions.md: "fixed values of this
spec, not open parameters: a model uses them as given"; log 6), and the sine ROM (spec/41_modulator.md R131). -/

namespace Sys2Proof.Machine

/-- `SAMPLESPERBIT` = 9600 / 1200 (R6). -/
abbrev samplesPerBit : Nat := 8

/-- The byte `FLAG` (R6). -/
abbrev flagByte : Byte := 0x7E

/-- `STUFF_RUN`: ones after which a zero is inserted, or dropped (R6, R101, R109). -/
abbrev stuffRun : BitVec 3 := 5

/-- Length of the run of ones inside a flag (R6, R108). -/
abbrev flagRun : BitVec 3 := 6

/-- Length of the run of ones that is an abort, where `rx_ones` saturates (R106, R107). -/
abbrev abortRun : BitVec 3 := 7

/-- `MARK_INC`: phase increment per sample of a 1 bit (R7, R130). -/
abbrev markInc : BitVec 16 := 8192

/-- `SPACE_INC`: phase increment per sample of a 0 bit (R7, R130). -/
abbrev spaceInc : BitVec 16 := 15019

/-- `DISC_SHIFT` (R7, R142). -/
abbrev discShift : Nat := 4

/-- `IIR_B0`, feedforward coefficient (R7, R143). -/
abbrev iirB0 : Int := 1

/-- `IIR_B1`, feedforward coefficient (R7, R143). -/
abbrev iirB1 : Int := 2

/-- `IIR_B2`, feedforward coefficient (R7, R143). -/
abbrev iirB2 : Int := 1

/-- `IIR_A1`, feedback coefficient (R7, R143). -/
abbrev iirA1 : Int := 15

/-- `IIR_A2`, feedback coefficient (R7, R143). -/
abbrev iirA2 : Int := -5

/-- `IIR_SHIFT` (R7, R143). -/
abbrev iirShift : Nat := 4

/-- `MARK_IS_NONPOSITIVE`: a filter output at most 0 is read as mark (R7, R145). -/
abbrev markIsNonpositive : Bool := true

/-- `LOCK_POINT`: bit-clock phase at which a polarity change is expected (R7, R158). -/
abbrev lockPoint : Nat := 4

/-- `NUDGE`: size in samples of one early or late correction (R7, R158). -/
abbrev nudge : Nat := 1

/-- The sine ROM (R131), entry 0 first, rows of 16 as the spec prints them. -/
def sineTable : List (BitVec 8) :=
  [128, 131, 134, 137, 140, 144, 147, 150, 153, 156, 159, 162, 165, 168, 171, 174] ++
  [177, 179, 182, 185, 188, 191, 193, 196, 199, 201, 204, 206, 209, 211, 213, 216] ++
  [218, 220, 222, 224, 226, 228, 230, 232, 234, 235, 237, 239, 240, 241, 243, 244] ++
  [245, 246, 248, 249, 250, 250, 251, 252, 253, 253, 254, 254, 254, 255, 255, 255] ++
  [255, 255, 255, 255, 254, 254, 254, 253, 253, 252, 251, 250, 250, 249, 248, 246] ++
  [245, 244, 243, 241, 240, 239, 237, 235, 234, 232, 230, 228, 226, 224, 222, 220] ++
  [218, 216, 213, 211, 209, 206, 204, 201, 199, 196, 193, 191, 188, 185, 182, 179] ++
  [177, 174, 171, 168, 165, 162, 159, 156, 153, 150, 147, 144, 140, 137, 134, 131] ++
  [128, 125, 122, 119, 116, 112, 109, 106, 103, 100, 97, 94, 91, 88, 85, 82] ++
  [79, 77, 74, 71, 68, 65, 63, 60, 57, 55, 52, 50, 47, 45, 43, 40] ++
  [38, 36, 34, 32, 30, 28, 26, 24, 22, 21, 19, 17, 16, 15, 13, 12] ++
  [11, 10, 8, 7, 6, 6, 5, 4, 3, 3, 2, 2, 2, 1, 1, 1] ++
  [1, 1, 1, 1, 2, 2, 2, 3, 3, 4, 5, 6, 6, 7, 8, 10] ++
  [11, 12, 13, 15, 16, 17, 19, 21, 22, 24, 26, 28, 30, 32, 34, 36] ++
  [38, 40, 43, 45, 47, 50, 52, 55, 57, 60, 63, 65, 68, 71, 74, 77] ++
  [79, 82, 85, 88, 91, 94, 97, 100, 103, 106, 109, 112, 116, 119, 122, 125]

end Sys2Proof.Machine
end

