-- ==== Sys2Proof/Config.lean ====
section
/-! DEFINITION. What is fixed for one instance or given to it from outside: the open parameters of
spec/92_eei_decisions.md ("the model takes them as arguments") and the straps of spec/00_scope.md R8. Both are fields of
State, so that every claim about all states is a claim about all their values. The constants the spec fixes stand in
Machine/Constants.lean. -/

namespace Sys2Proof

/-- Which bit of a byte is sent and received first (R7, R14, R69). -/
inductive BitOrder where
  | lsbFirst
  | msbFirst
  deriving DecidableEq, Repr

/-- The open parameters, "fixed for the life of an instance" (R7, R68, R69, R208). No operation writes them. -/
structure Params where
  /-- `BIT_ORDER` -/
  bitOrder : BitOrder
  /-- `TXQ_CAP`, in bytes, at least 1 -/
  txqCap : Nat
  /-- `RXQ_CAP`, in bytes, at least 1 -/
  rxqCap : Nat
  deriving DecidableEq, Repr

/-- The straps: inputs that `INIT` latches and no other operation reads (R8, R208). -/
structure Straps where
  /-- `PREAMBLE_BITS` -/
  preambleBits : BitVec 16
  /-- `TAIL_BITS` -/
  tailBits : BitVec 16
  /-- `CHANNEL` -/
  channel : BitVec 8
  deriving DecidableEq, Repr

/-- The parameters `State.reset` has: the default `BIT_ORDER` of R7 and the capacities "64 and 64 in the vectors".
DESIGN CHOICE (log 5), unsafe: the capacities are open. -/
def Params.default : Params := ⟨.lsbFirst, 64, 64⟩

/-- The straps `State.reset` has: those of R170's worked example, "straps 16, 8, 0".
DESIGN CHOICE (log 4), unsafe: the spec gives the straps no value. -/
def Straps.default : Straps := ⟨16, 8, 0⟩

end Sys2Proof
end

