-- ==== Sys2Proof/Machine/State.lean ====
section
/-! DEFINITION. The state of one instance, as plain data: every register of spec/10_state.md R21 to R45 (R50's table is
the complete list), the two byte queues its operations are defined through (spec/20_memory.md R63), the straps and open
parameters it is given, and three fields of the model's own (log 1, 2, 3). -/

namespace Sys2Proof.Machine

/-- `tx_state`, the state of the bit serializer (R22). -/
inductive TxState where
  | idle
  | preamble
  | data
  | tail
  deriving DecidableEq, Repr

/-- The transmit group (R21 to R30), written only by `TXS` and `INIT` (R20, R52). -/
structure TxGroup where
  /-- `tx_phase`: `u16` phase accumulator (R21) -/
  phase : BitVec 16
  /-- `tx_state` (R22) -/
  state : TxState
  /-- `tx_sample_ctr`: index of the next output sample inside the current bit (R23) -/
  sampleCtr : BitVec 3
  /-- `tx_byte`: the byte being sent (R24) -/
  byte : Byte
  /-- `tx_bit_idx`: position, in send order, of the next bit of `tx_byte` (R25) -/
  bitIdx : BitVec 3
  /-- `tx_ones`: consecutive 1 bits sent, for stuffing (R26) -/
  ones : BitVec 3
  /-- `tx_nostuff`: stuffing is suspended, `tx_byte` is a flag (R27) -/
  nostuff : Bool
  /-- `tx_cur_bit`: the bit being sent, 1 = mark (R28) -/
  curBit : Bool
  /-- `tx_flag_ctr`: preamble or tail flags still to be loaded (R29) -/
  flagCtr : BitVec 14
  /-- `sending` (R30) -/
  sending : Bool
  deriving DecidableEq, Repr

/-- `rx_delay[0..3]`: the last four input samples, `c0` the newest (R31). -/
structure DelayLine where
  c0 : Sample
  c1 : Sample
  c2 : Sample
  c3 : Sample
  deriving DecidableEq, Repr

/-- The receive group (R31 to R40), written only by `RXS` and `INIT` (R20, R52). -/
structure RxGroup where
  /-- `rx_delay` (R31) -/
  delay : DelayLine
  /-- `rx_x1`, `rx_x2`: the two feedforward cells (R32) -/
  x1 : S16
  x2 : S16
  /-- `rx_y1`, `rx_y2`: the two feedback cells (R33) -/
  y1 : S16
  y2 : S16
  /-- `rx_last_pol`: polarity of the previous filter output (R34) -/
  lastPol : Bool
  /-- `rx_phase`: bit-clock phase, 0 to 7 between operations (R35) -/
  phase : BitVec 4
  /-- `rx_raw_cnt`: samples since the last bit decision, 0 to 8 between operations (R36) -/
  rawCnt : BitVec 4
  /-- `rx_shift`: the last eight kept bits (R37) -/
  shift : Byte
  /-- `rx_sync`: 0 hunting, 1 receiving (R38) -/
  sync : Bool
  /-- `rx_ones`: consecutive 1 bits decided, saturating at 7 (R39) -/
  ones : BitVec 3
  /-- `rx_bit_cnt`: bits shifted in since the last byte boundary (R40) -/
  bitCnt : BitVec 3
  deriving DecidableEq, Repr

/-- The result value an operation returned to the agent that issued it (R85). -/
inductive OpResult where
  /-- `TXS`: the output sample, `u8` -/
  | sample (v : Byte)
  /-- `STRD`: the status word, `u8` -/
  | status (v : Byte)
  /-- `SNDRD`: 1 bit -/
  | sending (v : Bool)
  /-- `TXW`: 1 = the byte was queued, 0 = the queue was full -/
  | accepted (v : Bool)
  /-- `RXR`: `{valid, byte}` -/
  | received (valid : Bool) (byte : Byte)
  deriving DecidableEq, Repr

/-- The state of one instance and of the inputs and queues around it. -/
structure State where
  /-- open parameters (R7); written by no operation -/
  params : Params
  /-- the strap inputs (R8); written by no operation, changed by the environment (`State.setStraps`) -/
  straps : Straps
  /-- the model's own: operation words issued and not yet executed, next one first (R72; log 1) -/
  pending : List OpWord
  /-- the ghost bit of R206, set by `INIT` (log 3) -/
  initialised : Bool
  /-- the model's own: what the last completed operation returned (R85; log 2) -/
  result : Option OpResult
  /-- transmit group -/
  tx : TxGroup
  /-- receive group -/
  rx : RxGroup
  /-- `STATUS` (R41): bit 0 = `OVR` -/
  status : BitVec 8
  /-- `CFG_PREAMBLE` (R43) -/
  cfgPreamble : BitVec 16
  /-- `CFG_TAIL` (R44) -/
  cfgTail : BitVec 16
  /-- `CFG_CHANNEL` (R45) -/
  cfgChannel : BitVec 8
  /-- transmit queue, oldest byte first (R63, R64) -/
  txq : List Byte
  /-- receive queue, oldest byte first (R63, R64) -/
  rxq : List Byte
  deriving DecidableEq, Repr

/-- Faults: none. "No operation of the core raises an exception, traps, returns an error or fails to complete" (R185);
the one recorded event, the receive overrun, is a bit of `STATUS` and the machine goes on (R188, R196). -/
inductive Fault where
  deriving DecidableEq, Repr

/-- The outcomes that are no completion (R186). A refusal leaves the state unchanged and is no event of the hardware. -/
inductive Refusal where
  /-- Raised by `exec` for an instruction that has no meaning yet; no arm raises it. Safe. -/
  | notModelled (mnemonic : String)
  /-- `refuse(reserved_encoding)`, raised by `step` on a reserved operation word (R90, R186). Safe. -/
  | reservedEncoding
  /-- `refuse(not_initialised)`, raised by every operation but `INIT` on an instance that has never executed `INIT`
  (R186, R206). Safe. -/
  | notInitialised
  deriving DecidableEq, Repr

/-- The transmit group after `INIT` (R50). -/
def TxGroup.reset : TxGroup :=
  { phase := 0, state := .idle, sampleCtr := 0, byte := 0, bitIdx := 0, ones := 0, nostuff := false, curBit := true,
    flagCtr := 0, sending := false }

/-- The receive group after `INIT` (R50). -/
def RxGroup.reset : RxGroup :=
  { delay := ⟨0, 0, 0, 0⟩, x1 := 0, x2 := 0, y1 := 0, y2 := 0, lastPol := false, phase := 0, rawCnt := 0, shift := 0,
    sync := false, ones := 0, bitCnt := 0 }

/-- The machine right after its reset event, `INIT` (R205, R207): R50's table. The straps and parameters an instance is
given are named in log 4 and log 5; that `INIT` has been executed is log 3; no operation is pending (log 1). -/
def State.reset : State :=
  { params := Params.default, straps := Straps.default, pending := [], initialised := true, result := none,
    tx := TxGroup.reset, rx := RxGroup.reset, status := 0x00,
    cfgPreamble := Straps.default.preambleBits, cfgTail := Straps.default.tailBits,
    cfgChannel := Straps.default.channel, txq := [], rxq := [] }

end Sys2Proof.Machine
end

