-- ==== Sys2Proof/Machine/Ops.lean ====
section
/-! DEFINITION. The shared operations: integer arithmetic with explicit wraps (spec/00_scope.md R11, R12), the reference
byte queue (spec/20_memory.md R64 to R66), the delay line (R61), the sine ROM (R62), and how an operation ends
(spec/60_exceptions.md R185, R186). The core takes no exception and returns from none (R196, R197): there is no entry to
write here; the sticky overrun record that stands in its place is `setOvr` in Machine/Flags.lean. -/

namespace Sys2Proof.Machine

/-- `v >>a k`: floor of `v / 2^k`, rounding toward minus infinity (R12). -/
def sra (v : Int) (k : Nat) : Int := v / 2 ^ k

/-- `asS_N(u)`: the pattern read as two's complement (R11). -/
def asS {n : Nat} (u : BitVec n) : Int := u.toInt

/-- `wrapU_N(v)` and `asU_N(v)`: `v mod 2^N` as an N-bit pattern (R11, R12). -/
def wrapU (n : Nat) (v : Int) : BitVec n := BitVec.ofInt n v

/-- `wrapS_N(v) = asS_N(v mod 2^N)` (R12). -/
def wrapS (n : Nat) (v : Int) : Int := asS (wrapU n v)

/-- `QEmpty(q)` (R64). -/
def qEmpty (q : List Byte) : Bool := q.isEmpty

/-- `QLen(q)` (R64). -/
def qLen (q : List Byte) : Nat := q.length

/-- `QFull(q)` for a queue of capacity `cap` (R64). A list longer than the capacity, which no run reaches, counts as
full (log 7). -/
def qFull (cap : Nat) (q : List Byte) : Bool := decide (cap ≤ qLen q)

/-- `QPush(q, b)`: the result bit and the queue afterwards; a full queue drops the byte (R65). -/
def qPush (cap : Nat) (q : List Byte) (b : Byte) : Bool × List Byte :=
  if qFull cap q then (false, q) else (true, q ++ [b])

/-- `QPop(q)`: the oldest byte and the rest; none when the precondition `not QEmpty(q)` fails, for which the spec
gives `QPop` no meaning (R66). -/
def qPop (q : List Byte) : Option (Byte × List Byte) :=
  match q with
  | [] => none
  | b :: rest => some (b, rest)

/-- The shift of the delay line: the new sample enters at cell 0, the oldest leaves from cell 3 (R61, R140 step 4). -/
def DelayLine.push (d : DelayLine) (s : Sample) : DelayLine := ⟨s, d.c0, d.c1, d.c2⟩

/-- `ROM(SINE, i)` (R13, R62). -/
def sineRom (i : BitVec 8) : Byte := sineTable.getD i.toNat 0

/-- An operation other than `INIT` ends in `t` on an instance that has executed `INIT`; before the first `INIT` its
outcome is `refuse(not_initialised)` (R186, R206). -/
def whenInitialised (s t : State) : Host.Outcome State Fault Refusal :=
  if s.initialised then .next t else .refused .notInitialised

end Sys2Proof.Machine
end

