-- ==== Sys2Proof/Machine/Operands.lean ====
section
/-! DEFINITION. Operand and result forms: the sample operand (spec/30_encoding.md R86), the bit of a byte at a send
position (spec/00_scope.md R14), the shift direction of the receiver (spec/40_hdlc_framer.md R110), the number of flags
a bit count asks for (spec/41_modulator.md R121), and the result words (R85). -/

namespace Sys2Proof.Machine

/-- The sample value of an `RXS` operand: `asS_8(operand[7:0])` (R86). -/
def sampleValue (s : Sample) : Int := asS s

/-- `BitOf(byte, k)`: the bit sent at position `k`, 0 first (R14). -/
def bitOf (order : BitOrder) (byte : Byte) (k : BitVec 3) : Bool :=
  match order with
  | .lsbFirst => byte.getLsbD k.toNat
  | .msbFirst => byte.getLsbD (7 - k.toNat)

/-- A bit as the number 0 or 1. -/
def bitValue (b : Bool) : Int := if b then 1 else 0

/-- The shift register after a kept bit: `(rx_shift >>a 1) + 128*b` when the least significant bit goes first, else
`wrapU_8(2*rx_shift + b)` (R105, R110). -/
def shiftIn (order : BitOrder) (reg : Byte) (b : Bool) : Byte :=
  match order with
  | .lsbFirst => wrapU 8 (sra reg.toNat 1 + 128 * bitValue b)
  | .msbFirst => wrapU 8 (2 * reg.toNat + bitValue b)

/-- `NFlags(n) = (n + 7) >>a 3`: the whole flags that cover `n` bits, 0 to 8192 (R121). -/
def nFlags (n : BitVec 16) : BitVec 14 := wrapU 14 (sra (n.toNat + 7) 3)

/-- `tx_phase[15:8]`, the ROM index (R62, R130). -/
def romIndex (phase : BitVec 16) : BitVec 8 := phase.extractLsb' 8 8

/-- The numeric code of `tx_state` (R22). -/
def TxState.code : TxState → BitVec 2
  | .idle => 0
  | .preamble => 1
  | .data => 2
  | .tail => 3

/-- A result as the word R85 gives it, extended with zeros to 9 bits: `RXR`'s is `{valid, byte}`. -/
def OpResult.word : OpResult → BitVec 9
  | .sample v => v.setWidth 9
  | .status v => v.setWidth 9
  | .sending v => (BitVec.ofBool v).setWidth 9
  | .accepted v => (BitVec.ofBool v).setWidth 9
  | .received valid byte => BitVec.ofBool valid ++ byte

end Sys2Proof.Machine
end

