-- ==== Sys2Proof/Machine/Flags.lean ====
section
/-! DEFINITION. The one-bit conditions (spec/10_state.md R48): the status word and its bit `OVR` (R41), the `sending`
view (R42) and the continuous outputs (spec/44_host_operations.md R177), and the polarity of a filter output
(spec/42_demodulator.md R144, R145). There are no arithmetic condition codes (R48). -/

namespace Sys2Proof.Machine

/-- `STATUS[0]`, `OVR` (R41). -/
def ovr (status : BitVec 8) : Bool := status.getLsbD 0

/-- `STATUS[0] <- 1`, the other bits as they are (R112). -/
def setOvr (status : BitVec 8) : BitVec 8 := status ||| 0x01

/-- The word `STCL` leaves (R172). -/
def clearStatus : BitVec 8 := 0x00

/-- The transmit-enable level driven to the hardware collaborator: `sending` (R30, R42, R177). -/
def State.txEnable (s : State) : Bool := s.tx.sending

/-- The input selection driven to the ADC: `CFG_CHANNEL` (R45, R177). -/
def State.adcChannel (s : State) : BitVec 8 := s.cfgChannel

/-- `pol = 1` when the filter output is `> 0`, else 0 (R144). -/
def polarity (y : Int) : Bool := decide (0 < y)

/-- The recovered bit: `1 - pol`, a non-positive output being mark, bit 1 (R145, `MARK_IS_NONPOSITIVE`). -/
def recoveredBit (pol : Bool) : Bool := if markIsNonpositive then !pol else pol

end Sys2Proof.Machine
end

