-- ==== Sys2Proof/Machine/Hdlc.lean ====
section
/-! DEFINITION. The HDLC engine (spec/40_hdlc_framer.md): the transmit procedures `TxStuffCheck`, `TxDataBit`,
`LoadFlag`, `LoadQueueByte` (R101 to R103) over the transmit group, and the receive procedure `HdlcRxBit` (R105 to R112)
over the receive group, `STATUS` and the receive queue. The engine has no state of its own (R100). -/

namespace Sys2Proof.Machine

/-- `TxStuffCheck() -> bool`: true when this bit step was used up by a stuff bit (R101). -/
def txStuffCheck (t : TxGroup) : Bool × TxGroup :=
  if t.nostuff = false ∧ t.ones = stuffRun then
    (true, { t with curBit := false, ones := 0 })
  else
    (false, t)

/-- `TxDataBit()` (R102). -/
def txDataBit (order : BitOrder) (t : TxGroup) : TxGroup :=
  let b := bitOf order t.byte t.bitIdx
  { t with
    curBit := b
    ones := if t.nostuff then 0 else if b then t.ones + 1 else 0
    bitIdx := t.bitIdx + 1 }

/-- `LoadFlag()`: a preamble or tail flag (R103). -/
def loadFlag (t : TxGroup) : TxGroup :=
  { t with flagCtr := t.flagCtr - 1, byte := flagByte, nostuff := true }

/-- `LoadQueueByte(b)`: a queued 0x7E is sent as a flag, unstuffed (R103). -/
def loadQueueByte (b : Byte) (t : TxGroup) : TxGroup :=
  { t with byte := b, nostuff := decide (b = flagByte) }

/-- What `HdlcRxBit` reads and writes: the receive group, `STATUS` and the receive queue (R105). -/
structure RxSide where
  rx : RxGroup
  status : BitVec 8
  rxq : List Byte
  deriving DecidableEq, Repr

/-- A completed byte: dropped with `OVR` set when the queue is full, else pushed (R111, R112). -/
def completeByte (rxqCap : Nat) (r : RxSide) : RxSide :=
  if qFull rxqCap r.rxq then { r with status := setOvr r.status }
  else { r with rxq := (qPush rxqCap r.rxq r.rx.shift).2 }

/-- A kept bit is shifted in; while receiving it is counted, and the eighth completes a byte (R110, R111). -/
def keepBit (p : Params) (b : Bool) (r : RxSide) : RxSide :=
  let shifted : RxSide := { r with rx := { r.rx with shift := shiftIn p.bitOrder r.rx.shift b } }
  if r.rx.sync then
    let counted : RxSide := { shifted with rx := { shifted.rx with bitCnt := shifted.rx.bitCnt + 1 } }
    if counted.rx.bitCnt = 0 then completeByte p.rxqCap counted else counted
  else shifted

/-- The ones counter on a 1 bit: incremented, stopping at 7 (R106). -/
def countOne (ones : BitVec 3) : BitVec 3 := if ones < abortRun then ones + 1 else ones

/-- `HdlcRxBit(b)`: one decided bit (R105 to R109). -/
def hdlcRxBit (p : Params) (b : Bool) (r : RxSide) : RxSide :=
  if b then
    let counted : RxSide := { r with rx := { r.rx with ones := countOne r.rx.ones } }
    if counted.rx.ones = abortRun then
      { counted with rx := { counted.rx with sync := false, bitCnt := 0 } }
    else keepBit p true counted
  else
    let run := r.rx.ones
    let cleared : RxSide := { r with rx := { r.rx with ones := 0 } }
    if run = flagRun then { cleared with rx := { cleared.rx with sync := true, bitCnt := 0 } }
    else if run = stuffRun then cleared
    else keepBit p false cleared

end Sys2Proof.Machine
end

