-- ==== Sys2Proof/Machine/Timing.lean ====
section
/-! DEFINITION. The digital timing-recovery loop `ClockStep` (spec/43_timing_recovery.md R155 to R161). It reads and
writes `rx_last_pol`, `rx_phase` and `rx_raw_cnt` and nothing else (R164). -/

namespace Sys2Proof.Machine

/-- The nudge of a transition, one sample toward the lock point (R156 step 1, R158). -/
def nudgePhase (phase : Nat) : Nat :=
  if phase < lockPoint then phase + nudge
  else if phase > lockPoint then phase - nudge
  else phase

/-- The phase after step 1 of `ClockStep`: nudged when the polarity has changed and no nudge has been applied since the
last decision (R156, R157, R159). -/
def nudgedPhase (pol : Bool) (g : RxGroup) : Nat :=
  if pol ≠ g.lastPol ∧ g.rawCnt = g.phase then nudgePhase g.phase.toNat else g.phase.toNat

/-- `ClockStep(pol) -> bool`: whether a bit is decided in this call, and the receive group afterwards (R156). The counts
are computed as numbers and stored modulo their width; no value wraps in a state some run reaches (log 7). -/
def clockStep (pol : Bool) (g : RxGroup) : Bool × RxGroup :=
  let ticked := nudgedPhase pol g + 1
  if samplesPerBit ≤ ticked then
    (true, { g with lastPol := pol, phase := BitVec.ofNat 4 (ticked - samplesPerBit), rawCnt := 0 })
  else
    (false, { g with lastPol := pol, phase := BitVec.ofNat 4 ticked, rawCnt := g.rawCnt + 1 })

end Sys2Proof.Machine
end

