-- ==== Sys2Proof/Machine/Demodulator.lean ====
section
/-! DEFINITION. The demodulator, operation `RXS` (spec/42_demodulator.md R140 to R145): delay-and-correlate
discriminator, two-pole low-pass filter, bit sampler. -/

namespace Sys2Proof.Machine

/-- The discriminator value `wrapS_16((s * d) >>a DISC_SHIFT)` (R140 step 2, R142). -/
def discriminate (s d : Sample) : Int := wrapS 16 (sra (sampleValue s * sampleValue d) discShift)

/-- The filter output
`wrapS_16(B0*x0 + B1*x1 + B2*x2 + ((A1*y1 + A2*y2) >>a IIR_SHIFT))` (R140 step 3, R143). -/
def lowPass (x0 x1 x2 y1 y2 : Int) : Int :=
  wrapS 16 (iirB0 * x0 + iirB1 * x1 + iirB2 * x2 + sra (iirA1 * y1 + iirA2 * y2) iirShift)

/-- `x0` of an `RXS`: the new sample against the one four periods older, read before the line is shifted (R140, R141). -/
def newX (g : RxGroup) (s : Sample) : Int := discriminate s g.delay.c3

/-- `y0` of an `RXS` (R140 step 3). -/
def newY (g : RxGroup) (s : Sample) : Int := lowPass (newX g s) (asS g.x1) (asS g.x2) (asS g.y1) (asS g.y2)

/-- Step 4 of `RXS`: the delay line and the filter cells move on (R61, R140). -/
def filterStep (g : RxGroup) (s : Sample) : RxGroup :=
  { g with
    delay := g.delay.push s
    x1 := wrapU 16 (newX g s), x2 := g.x1
    y1 := wrapU 16 (newY g s), y2 := g.y1 }

/-- `RXS(s)` on the receive side (R140): the bit, if one is decided, is taken from the polarity of this same call
(R145, R161). -/
def rxSideStep (p : Params) (s : Sample) (r : RxSide) : RxSide :=
  let pol := polarity (newY r.rx s)
  let c := clockStep pol (filterStep r.rx s)
  let r' : RxSide := { r with rx := c.2 }
  if c.1 then hdlcRxBit p (recoveredBit pol) r' else r'

/-- The receive side of a state. -/
def State.rxSide (s : State) : RxSide := ⟨s.rx, s.status, s.rxq⟩

/-- A state with its receive side replaced. -/
def State.withRxSide (s : State) (r : RxSide) : State := { s with rx := r.rx, status := r.status, rxq := r.rxq }

/-- `RXS s` (R140): nothing is returned. -/
def execRxs (sample : Sample) (s : State) : Host.Outcome State Fault Refusal :=
  whenInitialised s { s.withRxSide (rxSideStep s.params sample s.rxSide) with result := none }

end Sys2Proof.Machine
end

