-- ==== Sys2Proof/Machine/Foreground.lean ====
section
/-! DEFINITION. The six operations of the foreground agent (spec/44_host_operations.md R170 to R175). -/

namespace Sys2Proof.Machine

/-- `INIT` (R170, R205): every register to its value of R50, the straps latched, both queues emptied; legal at any time
and the same every time (R225). The straps, the parameters and the operations still pending are not registers of the
core. -/
def execInit (s : State) : Host.Outcome State Fault Refusal :=
  .next
    { s with
      initialised := true, result := none,
      tx := TxGroup.reset, rx := RxGroup.reset, status := 0x00,
      cfgPreamble := s.straps.preambleBits, cfgTail := s.straps.tailBits, cfgChannel := s.straps.channel,
      txq := [], rxq := [] }

/-- `STRD` (R171): the status word is returned and not cleared. -/
def execStrd (s : State) : Host.Outcome State Fault Refusal :=
  whenInitialised s { s with result := some (.status s.status) }

/-- `STCL` (R172): the whole status word is cleared. -/
def execStcl (s : State) : Host.Outcome State Fault Refusal :=
  whenInitialised s { s with status := clearStatus, result := none }

/-- `SNDRD` (R173): the `sending` indication is returned. -/
def execSndrd (s : State) : Host.Outcome State Fault Refusal :=
  whenInitialised s { s with result := some (.sending s.tx.sending) }

/-- `TXW b` (R174): one byte is offered to the transmit queue, the result says whether it was queued. -/
def execTxw (b : Byte) (s : State) : Host.Outcome State Fault Refusal :=
  let q := qPush s.params.txqCap s.txq b
  whenInitialised s { s with txq := q.2, result := some (.accepted q.1) }

/-- `RXR` (R175): the oldest received byte, or `{0, 0x00}` when there is none. -/
def execRxr (s : State) : Host.Outcome State Fault Refusal :=
  match qPop s.rxq with
  | some (b, rest) => whenInitialised s { s with rxq := rest, result := some (.received true b) }
  | none => whenInitialised s { s with result := some (.received false 0x00) }

end Sys2Proof.Machine
end

