-- ==== Sys2Proof/Machine/Modulator.lean ====
section
/-! DEFINITION. The modulator, operation `TXS` (spec/41_modulator.md): the bit serializer `TxNextBit` (R121 to R128) and
the NCO (R130, R131). Its result and next state are functions of the transmit group, the transmit queue and the
configuration alone (R120, C10), which is what the types below say. -/

namespace Sys2Proof.Machine

/-- What `TXS` writes: the transmit group and the transmit queue (R52, R199). -/
structure TxSide where
  tx : TxGroup
  txq : List Byte
  deriving DecidableEq, Repr

/-- What `TXS` reads besides: `BIT_ORDER`, `CFG_PREAMBLE`, `CFG_TAIL` (R120, R199). -/
structure TxConfig where
  bitOrder : BitOrder
  preamble : BitVec 16
  tail : BitVec 16
  deriving DecidableEq, Repr

/-- The start of a transmission (R122). -/
def startTransmission (c : TxConfig) (t : TxGroup) : TxGroup :=
  { t with
    sending := true, state := .preamble, flagCtr := nFlags c.preamble,
    bitIdx := 0, ones := 0, nostuff := false }

/-- `GoIdle()` (R123, R128). -/
def goIdle (t : TxGroup) : TxGroup :=
  { t with state := .idle, sending := false, curBit := true, ones := 0, nostuff := false, bitIdx := 0 }

/-- How step 3 of `TxNextBit` ends: with a byte to send from, or with the serializer gone idle (R123). -/
inductive Boundary where
  | loaded (d : TxSide)
  | wentIdle (d : TxSide)
  deriving DecidableEq, Repr

/-- The next tail flag, or idle when none is left (R123, R127, R128). -/
def tailBoundary (d : TxSide) : Boundary :=
  if d.tx.flagCtr ≠ 0 then .loaded { d with tx := loadFlag d.tx } else .wentIdle { d with tx := goIdle d.tx }

/-- The next queue byte, or the start of the tail when the queue is empty (R125, R126). -/
def dataBoundary (c : TxConfig) (d : TxSide) : Boundary :=
  match qPop d.txq with
  | some (b, rest) => .loaded { tx := loadQueueByte b d.tx, txq := rest }
  | none => tailBoundary { d with tx := { d.tx with state := .tail, flagCtr := nFlags c.tail } }

/-- Step 3 of `TxNextBit`, at a byte boundary: preamble flag, data, tail flag or idle (R123 to R128). A preamble that
has just run out goes on to the data in the same bit step. In `IDLE` none of the pseudocode's branches applies; step 1
has left that state before step 3 is reached. -/
def byteBoundary (c : TxConfig) (d : TxSide) : Boundary :=
  match d.tx.state with
  | .preamble =>
    if d.tx.flagCtr ≠ 0 then .loaded { d with tx := loadFlag d.tx }
    else dataBoundary c { d with tx := { d.tx with state := .data } }
  | .data => dataBoundary c d
  | .tail => tailBoundary d
  | .idle => .loaded d

/-- Steps 2 to 4 of `TxNextBit`: a stuff bit, or the next bit of the current or a new byte, or the return to idle
(R123). -/
def nextBitActive (c : TxConfig) (d : TxSide) : TxSide :=
  match txStuffCheck d.tx with
  | (true, tx) => { d with tx := tx }
  | (false, tx) =>
    if tx.bitIdx = 0 then
      match byteBoundary c { d with tx := tx } with
      | .wentIdle d' => d'
      | .loaded d' => { d' with tx := txDataBit c.bitOrder d'.tx }
    else { d with tx := txDataBit c.bitOrder tx }

/-- `TxNextBit()`: the bit step (R123). In idle with an empty queue it sends mark; in idle with a byte waiting it starts
a transmission. -/
def txNextBit (c : TxConfig) (d : TxSide) : TxSide :=
  if d.tx.state = .idle then
    if qEmpty d.txq then { d with tx := { d.tx with curBit := true } }
    else nextBitActive c { d with tx := startTransmission c d.tx }
  else nextBitActive c d

/-- The phase increment, chosen from `tx_cur_bit` alone (R130, R51 item 1). -/
def phaseInc (curBit : Bool) : BitVec 16 := if curBit then markInc else spaceInc

/-- The phase `NcoStep` leaves: the sum modulo 65536 (R16, R130). -/
def ncoPhase (t : TxGroup) : BitVec 16 := t.phase + phaseInc t.curBit

/-- `NcoStep() -> u8`: add the increment, then look the new phase up (R130). -/
def ncoStep (t : TxGroup) : TxGroup × Byte :=
  ({ t with phase := ncoPhase t }, sineRom (romIndex (ncoPhase t)))

/-- The sample counter: held at 0 in idle, else counting modulo 8 (R120 step 3, R129). -/
def stepSampleCtr (t : TxGroup) : TxGroup :=
  { t with sampleCtr := if t.state = .idle then 0 else t.sampleCtr + 1 }

/-- `TXS() -> u8` on the transmit side (R120). -/
def txSideStep (c : TxConfig) (d : TxSide) : TxSide × Byte :=
  let d1 := if d.tx.sampleCtr = 0 then txNextBit c d else d
  let n := ncoStep d1.tx
  ({ d1 with tx := stepSampleCtr n.1 }, n.2)

/-- The transmit side of a state. -/
def State.txSide (s : State) : TxSide := ⟨s.tx, s.txq⟩

/-- The configuration `TXS` reads from a state. -/
def State.txConfig (s : State) : TxConfig := ⟨s.params.bitOrder, s.cfgPreamble, s.cfgTail⟩

/-- A state with its transmit side replaced. -/
def State.withTxSide (s : State) (d : TxSide) : State := { s with tx := d.tx, txq := d.txq }

/-- `TXS` (R120): one output sample is returned. -/
def execTxs (s : State) : Host.Outcome State Fault Refusal :=
  let d := txSideStep s.txConfig s.txSide
  whenInitialised s { s.withTxSide d.1 with result := some (.sample d.2) }

end Sys2Proof.Machine
end

