-- ==== Sys2Proof/Syntax.lean ====
section
/-! DEFINITION. The eight operations of spec/30_encoding.md R81, one constructor per row of spec/opcode_table.json. -/

namespace Sys2Proof

/-- An operation with its operand (R81 to R86). Every value of this type is a legal operation (R91). -/
inductive Instr where
  /-- `INIT`: reset every register, latch the straps, empty both queues (R170). -/
  | init
  /-- `RXS s`: consume one signed 8-bit input sample (R140). -/
  | rxs (s : Sample)
  /-- `TXS`: produce one unsigned 8-bit output sample (R120). -/
  | txs
  /-- `STRD`: read the status word (R171). -/
  | strd
  /-- `STCL`: clear the status word (R172). -/
  | stcl
  /-- `SNDRD`: read the `sending` indication (R173). -/
  | sndrd
  /-- `TXW b`: push one byte to the transmit queue (R174). -/
  | txw (b : Byte)
  /-- `RXR`: pop one byte from the receive queue (R175). -/
  | rxr
  deriving DecidableEq, Repr

/-- The mnemonic of R81. -/
def Instr.mnemonic : Instr → String
  | .init => "INIT"
  | .rxs _ => "RXS"
  | .txs => "TXS"
  | .strd => "STRD"
  | .stcl => "STCL"
  | .sndrd => "SNDRD"
  | .txw _ => "TXW"
  | .rxr => "RXR"

end Sys2Proof
end

