-- ==== Sys2Proof/Machine/Dispatch.lean ====
section
/-! DEFINITION. One arm per operation of spec/30_encoding.md R81. -/

namespace Sys2Proof.Machine

def exec (i : Instr) (s : State) : Host.Outcome State Fault Refusal :=
  match i with
  | .init => Sys2Proof.Machine.execInit s
  | .rxs sample => Sys2Proof.Machine.execRxs sample s
  | .txs => Sys2Proof.Machine.execTxs s
  | .strd => Sys2Proof.Machine.execStrd s
  | .stcl => Sys2Proof.Machine.execStcl s
  | .sndrd => Sys2Proof.Machine.execSndrd s
  | .txw b => Sys2Proof.Machine.execTxw b s
  | .rxr => Sys2Proof.Machine.execRxr s

end Sys2Proof.Machine
end

