-- ==== Sys2Proof/WellFormed.lean ====
section
/-! DEFINITION. Which operation words are legal (spec/30_encoding.md R80 to R84, R90) and which parameters are
(spec/20_memory.md R64, R68). An `Instr` carries its operand in a type that admits the legal values and no others (R91),
so what can be ill-formed is the word, checked here field by field and, independently, row by row of the opcode table;
the decoder of Decode.lean is written without these definitions. -/

namespace Sys2Proof

/-- The three operand formats of R82, R83, R84. -/
inductive Format where
  | n
  | s
  | b
  deriving DecidableEq, Repr

/-- Bits 19:16 of an operation word (R80). -/
def opField (w : OpWord) : BitVec 4 := w.extractLsb' 16 4

/-- Bits 15:0 of an operation word (R80). -/
def operandField (w : OpWord) : BitVec 16 := w.extractLsb' 0 16

/-- The format R81 gives an operation code; none for the reserved codes 0x8 to 0xF. -/
def formatOf (op : BitVec 4) : Option Format :=
  if op < 8 then
    if op = 1 then some .s else if op = 6 then some .b else some .n
  else none

/-- The must-be-zero bits of the operand are zero (R82: 15:0; R83, R84: 15:8). -/
def mustBeZeroClear (f : Format) (operand : BitVec 16) : Bool :=
  match f with
  | .n => operand == 0
  | .s | .b => operand.extractLsb' 8 8 == 0

/-- A word is legal when it is not reserved (R90). -/
def legalWord (w : OpWord) : Bool :=
  match formatOf (opField w) with
  | some f => mustBeZeroClear f (operandField w)
  | none => false

/-- One row of spec/opcode_table.json: "a word `w` selects the row when `w and mask = match`" (R95). -/
structure TableRow where
  mnemonic : String
  pattern : OpWord
  mask : OpWord
  deriving DecidableEq, Repr

/-- R95's condition for a word to select a row. -/
def TableRow.selects (r : TableRow) (w : OpWord) : Bool := w &&& r.mask == r.pattern

/-- The eight rows of spec/opcode_table.json (R95). -/
def opcodeTable : List TableRow :=
  [ ⟨"INIT", 0x00000, 0xFFFFF⟩,
    ⟨"RXS", 0x10000, 0xFFF00⟩,
    ⟨"TXS", 0x20000, 0xFFFFF⟩,
    ⟨"STRD", 0x30000, 0xFFFFF⟩,
    ⟨"STCL", 0x40000, 0xFFFFF⟩,
    ⟨"SNDRD", 0x50000, 0xFFFFF⟩,
    ⟨"TXW", 0x60000, 0xFFF00⟩,
    ⟨"RXR", 0x70000, 0xFFFFF⟩ ]

/-- Both capacities are at least 1 (R64, R68). -/
def Params.wellFormed (p : Params) : Bool := decide (1 ≤ p.txqCap) && decide (1 ≤ p.rxqCap)

end Sys2Proof
end

