-- ==== Sys2Proof/Decode.lean ====
section
/-! DEFINITION. The decoder of operation words, total, and the encoder (spec/30_encoding.md R80 to R86, R90). There is
one word length, no prefix and no compressed form (R80). -/

namespace Sys2Proof

/-- Why a word is reserved (R90). Both are `refuse(reserved_encoding)`. -/
inductive DecodeError where
  /-- the operation code is 0x8 to 0xF -/
  | reservedOp
  /-- a must-be-zero operand bit of the format is 1 -/
  | mustBeZero
  deriving DecidableEq, Repr

/-- Format N (R82): the whole operand must be zero. -/
def decodeN (i : Instr) (operand : BitVec 16) : Except DecodeError Instr :=
  if operand = 0 then .ok i else .error .mustBeZero

/-- Formats S and B (R83, R84): `operand[7:0]` is the operand, `operand[15:8]` must be zero. -/
def decodeByte (f : BitVec 8 → Instr) (operand : BitVec 16) : Except DecodeError Instr :=
  if operand >>> 8 = 0 then .ok (f (operand.setWidth 8)) else .error .mustBeZero

/-- The operation a word names, or why it is reserved (R81 to R84, R90). -/
def decode (w : OpWord) : Except DecodeError Instr :=
  let operand : BitVec 16 := w.setWidth 16
  match (w >>> 16).toNat with
  | 0 => decodeN .init operand
  | 1 => decodeByte .rxs operand
  | 2 => decodeN .txs operand
  | 3 => decodeN .strd operand
  | 4 => decodeN .stcl operand
  | 5 => decodeN .sndrd operand
  | 6 => decodeByte .txw operand
  | 7 => decodeN .rxr operand
  | _ => .error .reservedOp

/-- The operation code of R81. -/
def opCode : Instr → BitVec 4
  | .init => 0x0
  | .rxs _ => 0x1
  | .txs => 0x2
  | .strd => 0x3
  | .stcl => 0x4
  | .sndrd => 0x5
  | .txw _ => 0x6
  | .rxr => 0x7

/-- The operand field: zero for format N, the sample pattern or byte in bits 7:0 for formats S and B (R82 to R84). -/
def operandBits : Instr → BitVec 16
  | .init => 0
  | .rxs s => s.setWidth 16
  | .txs => 0
  | .strd => 0
  | .stcl => 0
  | .sndrd => 0
  | .txw b => b.setWidth 16
  | .rxr => 0

/-- The operation word `{op[19:16], operand[15:0]}` (R80). -/
def encode (i : Instr) : OpWord := opCode i ++ operandBits i

/-- The operation word whose bits are the number `w`, of which the table gives `nbits` bits (the bits above are 0); none
where the number does not fit the 20 bits of an operation word (log 10). Bit 0 of the number is bit 0 of the word: an
operation word is not stored anywhere, so no byte order arises (R60, R69). -/
def tableWord (nbits w : Nat) : Option OpWord :=
  let bits := w % 2 ^ nbits
  if bits < 2 ^ 20 then some (BitVec.ofNat 20 bits) else none

/-- The operation the decoder reads from the table's number of an operation word. -/
def decodeTableWord (nbits w : Nat) : Option Instr :=
  match tableWord nbits w with
  | some word => (decode word).toOption
  | none => none

end Sys2Proof
end

