-- ==== Sys2Proof/Machine/Issue.lean ====
section
/-! DEFINITION. How operation words reach the machine, and what the environment changes between two operations
(spec/00_scope.md R8, R10; spec/20_memory.md R72, R77; log 1, log 10). -/

namespace Sys2Proof.Machine

/-- An agent issues an operation word: it comes after all those issued before it (R72). -/
def State.issue (s : State) (w : OpWord) : State := { s with pending := s.pending ++ [w] }

/-- The environment changes the straps (R8, R208). -/
def State.setStraps (s : State) (st : Straps) : State := { s with straps := st }

/-- The word that stands for a number which is no operation word: op 0xF, reserved (R90; log 10). -/
def noOperationWord : OpWord := 0xFFFFF

/-- The operation word that comes next, and the words after it. -/
def fetchWord (s : State) : Option (OpWord × State) :=
  match s.pending with
  | [] => none
  | w :: rest => some (w, { s with pending := rest })

/-- The word of the table's number, placed before the pending ones. -/
def placeWord (s : State) (nbits w : Nat) : State :=
  { s with pending := (tableWord nbits w).getD noOperationWord :: s.pending }

end Sys2Proof.Machine
end

