-- ==== Sys2Proof/Machine/Step.lean ====
section
/-! DEFINITION. One step: the next operation of the total order (spec/20_memory.md R72) is decoded, and executed if its
word is not reserved (spec/60_exceptions.md R186: "a word is decoded before anything is executed"). When no operation is
issued the state does not change (R203). -/

namespace Sys2Proof.Machine

def step (s : State) : Host.Outcome State Fault Refusal :=
  match fetchWord s with
  | none => .next s
  | some (w, s') =>
    match decode w with
    | .ok i => exec i s'
    | .error _ => .refused .reservedEncoding

/-- The state with the table's operation word issued as the next one, before those pending (log 1, log 10): the very
next step executes it and leaves the others pending. -/
def State.withFetchWord (s : State) (nbits w : Nat) : State := placeWord s nbits w

end Sys2Proof.Machine
end

