-- ==== Sys2Proof/Machine/Trace.lean ====
section
/-! DEFINITION. Traces (spec/30_encoding.md R92), the pseudo-operations and their expansions (R93, R94;
spec/44_host_operations.md R176), and the agent that issues each operation (R81; spec/60_exceptions.md R198). None of it
is read by `step`: the core does not check who issues an operation. -/

namespace Sys2Proof.Machine

/-- The two agents, or contexts (R10, R198). -/
inductive Agent where
  | sampleClock
  | foreground
  deriving DecidableEq, Repr

/-- The agent R81 and R198 give an operation to. -/
def issuer : Instr → Agent
  | .init => .foreground
  | .rxs _ => .sampleClock
  | .txs => .sampleClock
  | .strd => .foreground
  | .stcl => .foreground
  | .sndrd => .foreground
  | .txw _ => .foreground
  | .rxr => .foreground

/-- One line of a trace, without its result annotation (R92): operands are written in decimal. -/
def traceLine : Instr → String
  | .init => "INIT"
  | .rxs s => "RXS " ++ toString (sampleValue s)
  | .txs => "TXS"
  | .strd => "STRD"
  | .stcl => "STCL"
  | .sndrd => "SNDRD"
  | .txw b => "TXW " ++ toString b.toNat
  | .rxr => "RXR"

/-- What follows when an operation completes; a fault or a refusal ends the trace (R186). -/
def andThen {α β : Type} (o : Host.Outcome α Fault Refusal) (f : α → Host.Outcome β Fault Refusal) :
    Host.Outcome β Fault Refusal :=
  match o with
  | .next a => f a
  | .fault e => .fault e
  | .refused r => .refused r

/-- "A trace is issued in order and each line is one atomic operation" (R92). -/
def runTrace : List Instr → State → Host.Outcome State Fault Refusal
  | [], s => .next s
  | i :: rest, s => andThen (exec i s) (runTrace rest)

/-- `REP n { ... }`: the enclosed lines, `n` times (R93). -/
def rep : Nat → List Instr → List Instr
  | 0, _ => []
  | n + 1, block => block ++ rep n block

/-- `WRITE b0 b1 ... -> k`: `TXW` of each byte in order, stopping after the first that returns 0; `k` is the number that
returned 1 (R93). -/
def writeBytes : List Byte → State → Host.Outcome (Nat × State) Fault Refusal
  | [], s => .next (0, s)
  | b :: rest, s =>
    andThen (exec (.txw b) s) fun t =>
      if t.result = some (.accepted true) then
        andThen (writeBytes rest t) fun r => .next (r.1 + 1, r.2)
      else .next (0, t)

/-- `READ n -> [bytes]`: up to `n` times `RXR`, stopping after the first that returns `valid = 0`; the bytes returned
with `valid = 1` (R93). -/
def readBytes : Nat → State → Host.Outcome (List Byte × State) Fault Refusal
  | 0, s => .next ([], s)
  | n + 1, s =>
    andThen (exec .rxr s) fun t =>
      match t.result with
      | some (.received true b) => andThen (readBytes n t) fun r => .next (b :: r.1, r.2)
      | _ => .next ([], t)

/-- The output sample a state has just returned, mid-scale where its last result is no sample. -/
def lastSample (s : State) : Byte :=
  match s.result with
  | some (.sample o) => o
  | _ => 0x80

/-- `PERIOD s -> o`: one sample period with an external input, `TXS -> o` then `RXS s` (R73, R93). -/
def period (s : Sample) (st : State) : Host.Outcome (Byte × State) Fault Refusal :=
  andThen (exec .txs st) fun t => andThen (exec (.rxs s) t) fun u => .next (lastSample t, u)

/-- `REP n { TXS }`, with the samples returned, in time order (R93). -/
def sampleRun : Nat → State → Host.Outcome (List Byte × State) Fault Refusal
  | 0, s => .next ([], s)
  | n + 1, s =>
    andThen (exec .txs s) fun t => andThen (sampleRun n t) fun r => .next (lastSample t :: r.1, r.2)

/-- The loopback conversion `asS_8(o xor 0x80)`, a convention of the test environment (R94). -/
def loopbackSample (o : Byte) : Sample := o ^^^ 0x80

/-- `LOOP n`: `n` sample periods in loopback (R93, R94). -/
def loop : Nat → State → Host.Outcome State Fault Refusal
  | 0, s => .next s
  | n + 1, s =>
    andThen (exec .txs s) fun t => andThen (exec (.rxs (loopbackSample (lastSample t))) t) (loop n)

end Sys2Proof.Machine
end

