-- ==== Sys2Proof/Safety.lean ====
section
/-! DEFINITION. The terms the claims use: the invariant of the states between operations (spec/10_state.md R51;
spec/95_test_vectors.md law L8), the wire format written down without the machine (spec/30_encoding.md R89), the bits a
receiver is fed and keeps (spec/40_hdlc_framer.md R110, R113), repeated bit steps and samples of the transmitter, and the
driver's duties that are about the order of operations (spec/20_memory.md R74; spec/70_reset_and_hazards.md R209). -/

namespace Sys2Proof.Safety

open Sys2Proof.Machine

/-! The invariant -/

/-- The transmit group between operations (R26, R27, R29, R30, R51): `tx_ones` at most 5; `sending` exactly outside
idle; what idle implies; a flag being sent is 0x7E, is not counted, and is all a preamble or tail sends; no flag is
owed in idle or data. -/
abbrev TxInv (t : TxGroup) : Prop :=
  t.ones ≤ 5 ∧
  (t.sending = true ↔ t.state ≠ .idle) ∧
  (t.state = .idle → t.curBit = true ∧ t.sampleCtr = 0 ∧ t.bitIdx = 0 ∧ t.ones = 0 ∧ t.nostuff = false) ∧
  (t.nostuff = true → t.byte = flagByte ∧ t.ones = 0) ∧
  (t.state = .preamble ∨ t.state = .tail → t.nostuff = true) ∧
  (t.state = .data → (t.nostuff = true ↔ t.byte = flagByte)) ∧
  t.flagCtr ≤ 8192 ∧
  (t.state = .idle ∨ t.state = .data → t.flagCtr = 0)

/-- The receive group between operations (R35, R36, R38 to R40, R51, R148): the bit clock's ranges, `rx_phase -
rx_raw_cnt` in -1, 0, 1, no alignment count and no run of seven unless the framer is where R107 leaves it, and the
discriminator's range. -/
abbrev RxInv (g : RxGroup) : Prop :=
  g.phase ≤ 7 ∧ g.rawCnt ≤ 8 ∧
  (g.phase = g.rawCnt ∨ g.phase = g.rawCnt + 1 ∨ g.phase + 1 = g.rawCnt) ∧
  (g.sync = false → g.bitCnt = 0) ∧
  (g.sync = true → g.ones ≤ 6) ∧
  (-1016 ≤ asS g.x1 ∧ asS g.x1 ≤ 1024) ∧
  (-1016 ≤ asS g.x2 ∧ asS g.x2 ≤ 1024)

/-- The queues within their capacities, and a byte waiting through a preamble (R64, R122, R124). -/
abbrev QueueInv (s : State) : Prop :=
  s.txq.length ≤ s.params.txqCap ∧ s.rxq.length ≤ s.params.rxqCap ∧ (s.tx.state = .preamble → s.txq ≠ [])

/-- `STATUS[7:1] = 0` (R41, R51). -/
abbrev StatusInv (status : BitVec 8) : Prop := status = 0x00 ∨ status = 0x01

/-- The invariant of one instance: legal parameters, and once `INIT` has been executed everything above. Before the
first `INIT` nothing is assumed of any register (R206). -/
abbrev Inv (s : State) : Prop :=
  s.params.wellFormed = true ∧
  (s.initialised = true → TxInv s.tx ∧ RxInv s.rx ∧ StatusInv s.status ∧ QueueInv s)

/-! The wire format (R89), in time order -/

/-- `01111110` (R14, R88). -/
def flagBits : List Bool := [false, true, true, true, true, true, true, false]

/-- `n` flags, one after the other. -/
def flags : Nat → List Bool
  | 0 => []
  | n + 1 => flagBits ++ flags n

/-- The eight bits of a byte in the order they are sent (R14, R69). -/
def byteBits (order : BitOrder) (b : Byte) : List Bool :=
  match order with
  | .lsbFirst =>
    [b.getLsbD 0, b.getLsbD 1, b.getLsbD 2, b.getLsbD 3, b.getLsbD 4, b.getLsbD 5, b.getLsbD 6, b.getLsbD 7]
  | .msbFirst =>
    [b.getLsbD 7, b.getLsbD 6, b.getLsbD 5, b.getLsbD 4, b.getLsbD 3, b.getLsbD 2, b.getLsbD 1, b.getLsbD 0]

/-- The run of ones after one more data bit, before which a stuff bit ends a run of five. -/
def runAfter (run : Nat) (b : Bool) : Nat :=
  if b then (if run = 5 then 1 else run + 1) else 0

/-- The bits sent for data bits that follow a run of `run` ones: a zero is inserted before the bit that follows five
consecutive ones (R89, R101). -/
def stuffBits : Nat → List Bool → List Bool
  | _, [] => []
  | run, b :: rest => (if run = 5 then [false, b] else [b]) ++ stuffBits (runAfter run b) rest

/-- The run of ones that data bits leave. -/
def runOf : Nat → List Bool → Nat
  | run, [] => run
  | run, b :: rest => runOf (runAfter run b) rest

/-- "A stuff bit owed after the last data bit of a byte is sent before the next byte or flag begins" (R89). -/
def owedBit (run : Nat) : List Bool := if run = 5 then [false] else []

/-- `S(D)`: the data bits `D` stuffed, with the bit owed at their end (R113). -/
def stuffed (bits : List Bool) : List Bool := stuffBits 0 bits ++ owedBit (runOf 0 bits)

/-- The body for the bytes of the transmit queue, after a run of `run` ones: a byte 0x7E is an unstuffed flag, any other
byte its eight bits, stuffed; a flag resets the run (R89). -/
def wireBody (order : BitOrder) : Nat → List Byte → List Bool
  | run, [] => owedBit run
  | run, b :: rest =>
    if b = 0x7E then owedBit run ++ flagBits ++ wireBody order 0 rest
    else stuffBits run (byteBits order b) ++ wireBody order (runOf run (byteBits order b)) rest

/-- One transmission (R89): preamble, body, tail. -/
def wire (c : TxConfig) (bytes : List Byte) : List Bool :=
  flags (nFlags c.preamble).toNat ++ wireBody c.bitOrder 0 bytes ++ flags (nFlags c.tail).toNat

/-! The receiver fed with bits -/

/-- The receive side after the bits, in order, have been given to `HdlcRxBit`. -/
def feed (p : Params) : List Bool → RxSide → RxSide
  | [], r => r
  | b :: rest, r => feed p rest (hdlcRxBit p b r)

/-- R110: a bit is kept unless it declares an abort, closes a flag or is a stuff zero. -/
def isKept (ones : BitVec 3) (b : Bool) : Bool :=
  if b then decide (ones < 6) else decide (ones ≠ 5 ∧ ones ≠ 6)

/-- The bits that are kept of those fed. -/
def keptBits (p : Params) : List Bool → RxSide → List Bool
  | [], _ => []
  | b :: rest, r =>
    (if isKept r.rx.ones b then [b] else []) ++ keptBits p rest (hdlcRxBit p b r)

/-! The transmitter run -/

/-- `n` bit steps: the bits chosen, in time order, and the transmit side afterwards. -/
def bitSteps (c : TxConfig) : Nat → TxSide → List Bool × TxSide
  | 0, d => ([], d)
  | n + 1, d =>
    let d' := txNextBit c d
    let r := bitSteps c n d'
    (d'.tx.curBit :: r.1, r.2)

/-- The samples of a bit sequence that lasts one sample a bit, from a phase: the increment of each bit's tone is added
first, the table is read at the new phase (R88, R130). -/
def toneSamples : BitVec 16 → List Bool → List Byte
  | _, [] => []
  | phase, b :: rest =>
    let phase' := phase + (if b then 8192 else 15019)
    sineTable.getD (phase' >>> 8).toNat 0 :: toneSamples phase' rest

/-- The phase a bit sequence that lasts one sample a bit leaves (R130). -/
def tonePhase : BitVec 16 → List Bool → BitVec 16
  | phase, [] => phase
  | phase, b :: rest => tonePhase (phase + (if b then 8192 else 15019)) rest

/-- Each bit `SAMPLESPERBIT` = 8 times (R88). -/
def perSample (bits : List Bool) : List Bool := bits.flatMap fun b => List.replicate 8 b

/-- The state `TXS` ends in when the transmit group its bit step left is `t` and the transmit queue is `q`: steps 2 to 4
of R120 (R129, R130), with nothing else of the instance changed but the result. -/
def afterBitStep (s : State) (t : TxGroup) (q : List Byte) : State :=
  let phase := t.phase + (if t.curBit then 8192 else 15019)
  { s with
    tx := { t with phase := phase, sampleCtr := if t.state = .idle then 0 else t.sampleCtr + 1 }
    txq := q
    result := some (.sample (sineTable.getD (phase >>> 8).toNat 0)) }

/-- A state without the result the last operation returned: what two orders of operations agree on. -/
def forgetResult (s : State) : State := { s with result := none }

/-- A flag loaded at a byte boundary, with its first bit, a 0, sent and not counted (R102, R103). -/
def sendingFlag (t : TxGroup) : TxGroup :=
  { t with flagCtr := t.flagCtr - 1, byte := 0x7E, nostuff := true, curBit := false, ones := 0, bitIdx := 1 }

/-- A queue byte loaded at a byte boundary, with its first bit sent; 0x7E goes out as a flag (R102, R103). -/
def sendingByte (order : BitOrder) (b : Byte) (t : TxGroup) : TxGroup :=
  { t with
    byte := b
    nostuff := decide (b = 0x7E)
    curBit := bitOf order b 0
    ones := if b = 0x7E then 0 else if bitOf order b 0 then t.ones + 1 else 0
    bitIdx := 1 }

/-- The serializer gone idle (R128). -/
def goneIdle (t : TxGroup) : TxGroup :=
  { t with state := .idle, sending := false, curBit := true, ones := 0, nostuff := false, bitIdx := 0 }

/-- A stuff bit is owed (R101). -/
abbrev StuffOwed (t : TxGroup) : Prop := t.nostuff = false ∧ t.ones = 5

/-- The kind of result R85 gives an operation; `RXR` with nothing to read returns the byte 0x00. -/
def resultFits : Instr → Option OpResult → Bool
  | .init, r => r == none
  | .rxs _, r => r == none
  | .txs, r => match r with | some (.sample _) => true | _ => false
  | .strd, r => match r with | some (.status _) => true | _ => false
  | .stcl, r => r == none
  | .sndrd, r => match r with | some (.sending _) => true | _ => false
  | .txw _, r => match r with | some (.accepted _) => true | _ => false
  | .rxr, r => match r with | some (.received v b) => v || b == 0x00 | _ => false

/-! The bit clock run -/

/-- One call of `ClockStep` for each polarity: whether each call decides a bit, in time order, and the group
afterwards. -/
def clockRun : List Bool → RxGroup → List Bool × RxGroup
  | [], g => ([], g)
  | pol :: rest, g =>
    let c := clockStep pol g
    let r := clockRun rest c.2
    (c.1 :: r.1, r.2)

/-- The polarities of `8 * k` calls from a transition to the next one (R162). -/
def halfWave (k : Nat) (pol : Bool) : List Bool := List.replicate (8 * k) pol

/-! Duties of the driver, as predicates on a trace -/

/-- The `RXS` issued less the `TXS` issued since the last `INIT`. -/
def sampleLead : Int → List Instr → List Int
  | lead, [] => [lead]
  | lead, .init :: rest => lead :: sampleLead 0 rest
  | lead, .rxs _ :: rest => lead :: sampleLead (lead + 1) rest
  | lead, .txs :: rest => lead :: sampleLead (lead - 1) rest
  | lead, .strd :: rest => lead :: sampleLead lead rest
  | lead, .stcl :: rest => lead :: sampleLead lead rest
  | lead, .sndrd :: rest => lead :: sampleLead lead rest
  | lead, .txw _ :: rest => lead :: sampleLead lead rest
  | lead, .rxr :: rest => lead :: sampleLead lead rest

/-- Period alignment (R74, R215): in every prefix the numbers of `RXS` and `TXS` since `INIT` differ by at most one. -/
def periodAligned (trace : List Instr) : Bool :=
  (sampleLead 0 trace).all fun d => decide (-1 ≤ d) && decide (d ≤ 1)

/-- Bring-up (R209): the first operation is `INIT`. -/
def startsWithInit (trace : List Instr) : Bool :=
  match trace with
  | [] => true
  | .init :: _ => true
  | _ => false

end Sys2Proof.Safety
end

