-- ==== Sys2Proof/Certificates/Slice0/Obligations.lean ====
section
/-! DEFINITION. The statements about the model, one definition each; OBLIGATIONS.json lists them. -/

open Sys2Proof Sys2Proof.Machine Sys2Proof.Safety

/-! Encoding and steps -/

/-- The decoder reads an operation from a word exactly when the word is the operation's encoding (R80 to R84, R91). -/
def Obligations.DecodeInvertsEncode : Prop :=
  ∀ (w : OpWord) (i : Instr), decode w = .ok i ↔ encode i = w

/-- R90: a step refuses the next word as a reserved encoding exactly when its operation code is 0x8 to 0xF or a
must-be-zero operand bit of its format is 1. The refusal carries no state and no result. -/
def Obligations.ReservedWordsAreRefused : Prop :=
  ∀ (s : State) (w : OpWord) (rest : List OpWord), s.pending = w :: rest →
    (step s = .refused .reservedEncoding ↔
      (8 ≤ opField w ∨
       (opField w ≠ 1 ∧ opField w ≠ 6 ∧ operandField w ≠ 0) ∨
       ((opField w = 1 ∨ opField w = 6) ∧ operandField w >>> 8 ≠ 0)))

/-- R95: a word selects a row of the opcode table exactly when it is not reserved, the row it selects has the mnemonic
of the operation it decodes to, and it selects no second row. -/
def Obligations.TableRowsMatchTheDecoder : Prop :=
  ∀ w : OpWord,
    ((∃ row ∈ opcodeTable, row.selects w = true) ↔ ∃ i, decode w = .ok i) ∧
    (∀ row ∈ opcodeTable, row.selects w = true → ∃ i, decode w = .ok i ∧ i.mnemonic = row.mnemonic) ∧
    (∀ row ∈ opcodeTable, ∀ row' ∈ opcodeTable, row.selects w = true → row'.selects w = true → row = row')

/-- Words written out from R81 to R86 (and the table of 95_test_vectors 3.1) decode to the operations they stand for. -/
def Obligations.SpecWordsDecode : Prop :=
  decode 0x00000 = .ok .init ∧ decode 0x10000 = .ok (.rxs 0) ∧ decode 0x1007F = .ok (.rxs 127) ∧
  decode 0x10080 = .ok (.rxs (-128)) ∧ decode 0x20000 = .ok .txs ∧ decode 0x30000 = .ok .strd ∧
  decode 0x40000 = .ok .stcl ∧ decode 0x50000 = .ok .sndrd ∧ decode 0x6007E = .ok (.txw 0x7E) ∧
  decode 0x70000 = .ok .rxr

/-- A step runs the operation the next word decodes to, on the state without that word: nothing else is added around
`exec` (R9, R72). That the operations issued are a list is the model's choice (log 1). -/
def Obligations.StepRunsDecodedOperation : Prop :=
  ∀ (s : State) (w : OpWord) (rest : List OpWord) (i : Instr), s.pending = w :: rest → decode w = .ok i →
    step s = exec i { s with pending := rest }

/-- R203: when no operation is issued the state does not change. That there is a step then is the model's choice
(log 1). -/
def Obligations.NothingIssuedNothingChanges : Prop :=
  ∀ s : State, s.pending = [] → step s = .next s

/-- A word placed for fetching is the very next operation and leaves the pending ones pending, a number that is no legal
word is refused, and an operation issued to an instance with nothing pending is the next one (log 1, log 10: the model's
own conventions). -/
def Obligations.PlacedWordRunsNext : Prop :=
  (∀ (s : State) (nbits w : Nat) (i : Instr), decodeTableWord nbits w = some i →
    step (s.withFetchWord nbits w) = exec i s) ∧
  (∀ (s : State) (nbits w : Nat), decodeTableWord nbits w = none →
    step (s.withFetchWord nbits w) = .refused .reservedEncoding) ∧
  (∀ (s : State) (w : OpWord) (i : Instr), s.pending = [] → decode w = .ok i → step (s.issue w) = exec i s)

/-- R206: on an instance that has never executed `INIT` every operation but `INIT` is refused, and `INIT` completes. -/
def Obligations.OnlyInitRunsBeforeInit : Prop :=
  ∀ (i : Instr) (s : State), s.initialised = false →
    (i ≠ .init → exec i s = .refused .notInitialised) ∧
    (∃ t, exec .init s = .next t ∧ t.initialised = true)

/-- R185: every legal operation word, on an instance that has executed `INIT`, completes, whatever the state, with a
result of the kind R85 gives it. That the words after it stay pending, and that the result is read in the field
`result`, rest on the model's own list of words and its own field (log 1, log 2). -/
def Obligations.EveryLegalWordCompletes : Prop :=
  ∀ (s : State) (w : OpWord) (rest : List OpWord), s.initialised = true → s.pending = w :: rest →
    legalWord w = true →
    ∃ i t, decode w = .ok i ∧ step s = .next t ∧ t.initialised = true ∧ t.pending = rest ∧
      resultFits i t.result = true

/-! Reset and the invariant -/

/-- R205: from every state, one never initialised too, `INIT` gives every register the value of R50's table, latches the
straps and empties both queues; the straps, the parameters and the pending operations are as they were. The fields
`pending`, `initialised` and `result` are the model's own (log 1, log 2, log 3). -/
def Obligations.InitResetsEveryRegister : Prop :=
  ∀ s : State, exec .init s = .next
    { params := s.params, straps := s.straps, pending := s.pending, initialised := true, result := none,
      tx := { phase := 0, state := .idle, sampleCtr := 0, byte := 0, bitIdx := 0, ones := 0, nostuff := false,
              curBit := true, flagCtr := 0, sending := false },
      rx := { delay := ⟨0, 0, 0, 0⟩, x1 := 0, x2 := 0, y1 := 0, y2 := 0, lastPol := false, phase := 0, rawCnt := 0,
              shift := 0, sync := false, ones := 0, bitCnt := 0 },
      status := 0x00, cfgPreamble := s.straps.preambleBits, cfgTail := s.straps.tailBits,
      cfgChannel := s.straps.channel, txq := [], rxq := [] }

/-- The reset state is what `INIT` leaves (log 3: the model's reading of R205), so a second `INIT` changes nothing. -/
def Obligations.ResetStateIsWhatInitLeaves : Prop :=
  exec .init State.reset = .next State.reset ∧
  ∀ s t : State, exec .init s = .next t → exec .init t = .next t

/-- The reset state, whose straps and parameters are the model's choice (log 3, log 4, log 5), meets the invariant. -/
def Obligations.ResetStateMeetsInvariant : Prop := Inv State.reset

/-- R51 and law L8: a step keeps the invariant, from every state that meets it. -/
def Obligations.StepKeepsTheInvariant : Prop :=
  ∀ s t : State, Inv s → step s = .next t → Inv t

/-! The foreground's operations. Here and below the result an operation returns is read in the field `result` (log 2). -/

/-- R171: `STRD` returns the status word and changes nothing; the word is 0x00 or 0x01. -/
def Obligations.StatusReadReturnsTheWord : Prop :=
  decode 0x30000 = .ok .strd ∧
  (∀ s : State, s.initialised = true → exec .strd s = .next { s with result := some (.status s.status) }) ∧
  (∀ s t : State, Inv s → exec .strd s = .next t →
    t.result = some (.status 0x00) ∨ t.result = some (.status 0x01))

/-- R172: `STCL` clears the whole status word and touches nothing else. -/
def Obligations.StatusClearClearsTheWord : Prop :=
  decode 0x40000 = .ok .stcl ∧
  ∀ s : State, s.initialised = true → exec .stcl s = .next { s with status := 0x00, result := none }

/-- R173: `SNDRD` returns `sending` and changes nothing; after a `TXW` it still returns what it did before. -/
def Obligations.SendingReadReturnsTheLevel : Prop :=
  decode 0x50000 = .ok .sndrd ∧
  (∀ s : State, s.initialised = true → exec .sndrd s = .next { s with result := some (.sending s.tx.sending) }) ∧
  (∀ (b : Byte) (s t : State), exec (.txw b) s = .next t →
    exec .sndrd t = .next { t with result := some (.sending s.tx.sending) })

/-- R174: `TXW b` queues the byte and returns 1 when there is room; a full queue is unchanged and 0 is returned. -/
def Obligations.TransmitWriteQueuesOrRefusesTheByte : Prop :=
  (∀ b : Byte, decode (0x60000 + b.setWidth 20) = .ok (.txw b)) ∧
  (∀ (b : Byte) (s : State), s.initialised = true →
    (s.txq.length < s.params.txqCap →
      exec (.txw b) s = .next { s with txq := s.txq ++ [b], result := some (.accepted true) }) ∧
    (s.params.txqCap ≤ s.txq.length → exec (.txw b) s = .next { s with result := some (.accepted false) }))

/-- R175: `RXR` returns and removes the oldest received byte, or returns `{0, 0x00}`; the result words are R85's. -/
def Obligations.ReceiveReadTakesTheOldestByte : Prop :=
  decode 0x70000 = .ok .rxr ∧
  (∀ (b : Byte) (rest : List Byte) (s : State), s.initialised = true → s.rxq = b :: rest →
    exec .rxr s = .next { s with rxq := rest, result := some (.received true b) }) ∧
  (∀ s : State, s.initialised = true → s.rxq = [] →
    exec .rxr s = .next { s with result := some (.received false 0x00) }) ∧
  (∀ b : Byte, (OpResult.received true b).word = 0x100 + b.setWidth 9) ∧
  (OpResult.received false 0x00).word = 0x000

/-- R93, R176: `WRITE` queues as many of its bytes as there is room for, in order, and returns how many. -/
def Obligations.WriteQueuesWhatFits : Prop :=
  ∀ (bytes : List Byte) (s : State), s.initialised = true →
    ∃ k t, writeBytes bytes s = .next (k, t) ∧ k = min bytes.length (s.params.txqCap - s.txq.length) ∧
      forgetResult t = forgetResult { s with txq := s.txq ++ bytes.take k }

/-- R93, R176: `READ n` returns the `n` oldest received bytes, or all there are, and removes them. -/
def Obligations.ReadDrainsTheReceiveQueue : Prop :=
  ∀ (n : Nat) (s : State), s.initialised = true →
    ∃ t, readBytes n s = .next (s.rxq.take n, t) ∧
      forgetResult t = forgetResult { s with rxq := s.rxq.drop n }

/-- R64 to R66: a push to a queue with room appends at the new end, a push to a full queue changes nothing, a pop takes
the oldest byte, so what is pushed comes out after all that was there before, unchanged. -/
def Obligations.QueuesAreFirstInFirstOut : Prop :=
  ∀ (cap : Nat) (q : List Byte) (b : Byte),
    (qFull cap q = true → qPush cap q b = (false, q)) ∧
    (qFull cap q = false → qPush cap q b = (true, q ++ [b])) ∧
    (qEmpty q = true ↔ qPop q = none) ∧
    (∀ c rest, qPop q = some (c, rest) → q = c :: rest ∧ (qFull cap q = false →
      qPop (qPush cap q b).2 = some (c, rest ++ [b])))

/-! The modulator -/

/-- R121: `NFlags(n)` is the bit count divided by 8 and rounded up. -/
def Obligations.FlagCountCoversTheBits : Prop :=
  (∀ n : BitVec 16, (nFlags n).toNat = (n.toNat + 7) / 8) ∧
  (nFlags 0 = 0 ∧ nFlags 1 = 1 ∧ nFlags 8 = 1 ∧ nFlags 9 = 2 ∧ nFlags 65535 = 8192)

/-- R131's properties of the sine ROM: its length, its extremes and where they stand, never 0, the two symmetries, and
the sum of its entries (95_test_vectors M4). -/
def Obligations.SineRomHasItsSymmetries : Prop :=
  sineTable.length = 256 ∧ sineRom 0 = 128 ∧ sineRom 64 = 255 ∧ sineRom 128 = 128 ∧ sineRom 192 = 1 ∧
  (∀ i : BitVec 8,
    1 ≤ (sineRom i).toNat ∧
    (sineRom i = 1 ↔ 189 ≤ i.toNat ∧ i.toNat ≤ 195) ∧
    (sineRom i = 255 ↔ 61 ≤ i.toNat ∧ i.toNat ≤ 67) ∧
    (sineRom i).toNat + (sineRom (i + 128)).toNat = 256 ∧
    sineRom i = sineRom (128 - i)) ∧
  (sineTable.map BitVec.toNat).sum = 32768

/-- R130 and law L3: `TXS` adds the increment of the bit being sent to the phase and returns the table's entry at the
new phase; no operation but `TXS` and `INIT` moves the phase. -/
def Obligations.PhaseMovesByTheToneOfTheBit : Prop :=
  (∀ s : State, s.initialised = true → ∃ t, exec .txs s = .next t ∧
    t.tx.phase = s.tx.phase + (if t.tx.curBit then 8192 else 15019) ∧
    t.result = some (.sample (sineRom (t.tx.phase.extractLsb' 8 8)))) ∧
  (∀ (i : Instr) (s t : State), i ≠ .init → i ≠ .txs → exec i s = .next t → t.tx.phase = s.tx.phase)

/-- R120, R129: inside a bit `TXS` chooses no new bit: it moves the phase, counts the sample and returns one. -/
def Obligations.TxsInsideABit : Prop :=
  ∀ s : State, s.initialised = true → s.tx.sampleCtr ≠ 0 →
    exec .txs s = .next (afterBitStep s s.tx s.txq)

/-- R120, R123, R132: in idle with an empty queue `TXS` sends one sample of mark. -/
def Obligations.TxsIdleSendsMark : Prop :=
  ∀ s : State, s.initialised = true → s.tx.state = .idle → s.tx.sampleCtr = 0 → s.txq = [] →
    exec .txs s = .next (afterBitStep s { s.tx with curBit := true } [])

/-- R122, R124: in idle with a byte queued `TXS` starts a transmission: with the first preamble flag, the queue
untouched, or, when the preamble has no flag, with the first queue byte. -/
def Obligations.TxsStartsATransmission : Prop :=
  ∀ (s : State) (b : Byte) (rest : List Byte), s.initialised = true → s.tx.state = .idle → s.tx.sampleCtr = 0 →
    s.txq = b :: rest →
    (nFlags s.cfgPreamble ≠ 0 →
      exec .txs s = .next (afterBitStep s
        (sendingFlag { s.tx with sending := true, state := .preamble, flagCtr := nFlags s.cfgPreamble }) s.txq)) ∧
    (nFlags s.cfgPreamble = 0 →
      exec .txs s = .next (afterBitStep s
        (sendingByte s.params.bitOrder b { s.tx with sending := true, state := .data, flagCtr := 0, ones := 0 }) rest))

/-- R101: at a bit step with a stuff bit owed `TXS` sends a 0 and pops, loads and advances nothing. -/
def Obligations.TxsSendsTheStuffBit : Prop :=
  ∀ s : State, s.initialised = true → s.tx.state ≠ .idle → s.tx.sampleCtr = 0 → StuffOwed s.tx →
    exec .txs s = .next (afterBitStep s { s.tx with curBit := false, ones := 0 } s.txq)

/-- R102: at a bit step inside a byte `TXS` sends the byte's next bit and counts ones, unless a flag is being sent. -/
def Obligations.TxsSendsTheNextBitOfTheByte : Prop :=
  ∀ s : State, s.initialised = true → s.tx.state ≠ .idle → s.tx.sampleCtr = 0 → ¬ StuffOwed s.tx →
    s.tx.bitIdx ≠ 0 →
    exec .txs s = .next (afterBitStep s
      { s.tx with
        curBit := bitOf s.params.bitOrder s.tx.byte s.tx.bitIdx
        ones := if s.tx.nostuff then 0
          else if bitOf s.params.bitOrder s.tx.byte s.tx.bitIdx then s.tx.ones + 1 else 0
        bitIdx := s.tx.bitIdx + 1 } s.txq)

/-- R124: at a byte boundary of the preamble `TXS` sends one more flag and leaves the queue alone, or, when none is
left, goes on to the data in the same bit step. -/
def Obligations.TxsAtAPreambleByteBoundary : Prop :=
  ∀ s : State, s.initialised = true → s.tx.state = .preamble → s.tx.sampleCtr = 0 → ¬ StuffOwed s.tx →
    s.tx.bitIdx = 0 →
    (s.tx.flagCtr ≠ 0 → exec .txs s = .next (afterBitStep s (sendingFlag s.tx) s.txq)) ∧
    (∀ b rest, s.tx.flagCtr = 0 → s.txq = b :: rest →
      exec .txs s = .next (afterBitStep s (sendingByte s.params.bitOrder b { s.tx with state := .data }) rest))

/-- R125, R126: at a byte boundary of the data `TXS` pops and sends the oldest byte; with an empty queue the tail begins,
or, when the tail has no flag, the serializer goes idle. -/
def Obligations.TxsAtADataByteBoundary : Prop :=
  ∀ s : State, s.initialised = true → s.tx.state = .data → s.tx.sampleCtr = 0 → ¬ StuffOwed s.tx →
    s.tx.bitIdx = 0 →
    (∀ b rest, s.txq = b :: rest →
      exec .txs s = .next (afterBitStep s (sendingByte s.params.bitOrder b s.tx) rest)) ∧
    (s.txq = [] → nFlags s.cfgTail ≠ 0 →
      exec .txs s =
        .next (afterBitStep s (sendingFlag { s.tx with state := .tail, flagCtr := nFlags s.cfgTail }) [])) ∧
    (s.txq = [] → nFlags s.cfgTail = 0 →
      exec .txs s = .next (afterBitStep s (goneIdle { s.tx with flagCtr := 0 }) []))

/-- R127, R128: at a byte boundary of the tail `TXS` sends one more flag, or, when none is left, goes idle with a mark
bit; the queue is not examined. -/
def Obligations.TxsAtATailByteBoundary : Prop :=
  ∀ s : State, s.initialised = true → s.tx.state = .tail → s.tx.sampleCtr = 0 → ¬ StuffOwed s.tx →
    s.tx.bitIdx = 0 →
    (s.tx.flagCtr ≠ 0 → exec .txs s = .next (afterBitStep s (sendingFlag s.tx) s.txq)) ∧
    (s.tx.flagCtr = 0 → exec .txs s = .next (afterBitStep s (goneIdle s.tx) s.txq))

/-- R52, R54, R125: what `TXS` leaves alone: everything but the transmit group, the transmit queue and the result. It
pops at most one byte, the oldest, and only in a bit step at a byte boundary with no stuff bit owed. The sample returned
is never 0 (law L5). -/
def Obligations.TxsTouchesOnlyTheTransmitSide : Prop :=
  ∀ s t : State, Inv s → exec .txs s = .next t →
    t = { s with tx := t.tx, txq := t.txq, result := t.result } ∧
    (t.txq = s.txq ∨
      ∃ b, s.txq = b :: t.txq ∧ s.tx.sampleCtr = 0 ∧ s.tx.bitIdx = 0 ∧ ¬ StuffOwed s.tx) ∧
    (∃ v, t.result = some (.sample v) ∧ v ≠ 0)

/-- R53: the only transitions of `tx_state`, each with its condition; two rows of the table may be taken in one bit
step. -/
def Obligations.SerializerTransitionsAreTheTables : Prop :=
  ∀ (i : Instr) (s t : State), Inv s → exec i s = .next t → t.tx.state ≠ s.tx.state →
    (i = .init ∧ t.tx.state = .idle) ∨
    (i = .txs ∧ s.tx.sampleCtr = 0 ∧
      ((s.tx.state = .idle ∧ s.txq ≠ [] ∧
          t.tx.state = if nFlags s.cfgPreamble = 0 then .data else .preamble) ∨
       (s.tx.bitIdx = 0 ∧ s.tx.state = .preamble ∧ s.tx.flagCtr = 0 ∧ t.tx.state = .data) ∨
       (s.tx.bitIdx = 0 ∧ s.tx.state = .data ∧ ¬ StuffOwed s.tx ∧ s.txq = [] ∧
          t.tx.state = if nFlags s.cfgTail = 0 then .idle else .tail) ∨
       (s.tx.bitIdx = 0 ∧ s.tx.state = .tail ∧ s.tx.flagCtr = 0 ∧ t.tx.state = .idle)))

/-- R89: the bits chosen for a transmission are the wire format of the bytes that were queued when it started: preamble,
stuffed body with queued 0x7E bytes as flags, tail; `sending` is 1 through all of them, and the next bit step goes
idle. -/
def Obligations.TransmissionFollowsTheWireFormat : Prop :=
  ∀ (c : TxConfig) (d : TxSide), d.tx.state = .idle → d.txq ≠ [] →
    (bitSteps c (wire c d.txq).length d).1 = wire c d.txq ∧
    (∀ k, 1 ≤ k → k ≤ (wire c d.txq).length → (bitSteps c k d).2.tx.sending = true) ∧
    (let e := (bitSteps c ((wire c d.txq).length + 1) d).2
     e.tx.state = .idle ∧ e.tx.sending = false ∧ e.tx.curBit = true ∧ e.txq = [])

/-- R88, R128, R135: the samples of a transmission are eight of each bit's tone, in continuous phase from the phase
before; `sending` is 1 after each of them and 0 after the next `TXS`; the receive side is untouched. -/
def Obligations.TransmissionIsEightSamplesOfEachBit : Prop :=
  ∀ s : State, s.initialised = true → s.tx.state = .idle → s.tx.sampleCtr = 0 → s.txq ≠ [] →
    (∃ t, sampleRun (8 * (wire s.txConfig s.txq).length) s =
        .next (toneSamples s.tx.phase (perSample (wire s.txConfig s.txq)), t) ∧
      t.tx.phase = tonePhase s.tx.phase (perSample (wire s.txConfig s.txq)) ∧
      t.txq = [] ∧ t.rx = s.rx ∧ t.rxq = s.rxq ∧ t.status = s.status ∧
      ∃ u, exec .txs t = .next u ∧ u.tx.sending = false ∧ u.tx.state = .idle) ∧
    (∀ k, 1 ≤ k → k ≤ 8 * (wire s.txConfig s.txq).length →
      ∃ samples t, sampleRun k s = .next (samples, t) ∧ t.tx.sending = true)

/-- Law L2, R104: while `sending` is 1 the bits sent never hold seven consecutive ones. -/
def Obligations.NoAbortWhileSending : Prop :=
  ∀ (c : TxConfig) (d : TxSide) (n : Nat), d.tx.state = .idle → d.txq ≠ [] →
    (bitSteps c n d).2.tx.sending = true → ¬ (List.replicate 7 true <:+: (bitSteps c n d).1)

/-- R132, law L4: in idle with an empty queue any number of `TXS` is mark in continuous phase and moves the phase only;
eight of them leave the transmit group as it was, and from a phase whose bits 12:0 are 0 return a rotation of the eight
samples the rule gives. -/
def Obligations.IdleToneIsStable : Prop :=
  ∀ s : State, Inv s → s.initialised = true → s.tx.state = .idle → s.txq = [] →
    (∀ n, ∃ t, sampleRun n s = .next (toneSamples s.tx.phase (List.replicate n true), t) ∧
      t.tx = { s.tx with phase := tonePhase s.tx.phase (List.replicate n true) }) ∧
    (∃ samples t, sampleRun 8 s = .next (samples, t) ∧ t.tx = s.tx ∧
      (s.tx.phase.extractLsb' 0 13 = 0 →
        ∃ k, samples = [218, 255, 218, 128, 38, 1, 38, 128].rotate k))

/-! The demodulator and the bit clock -/

/-- R142: the discriminator value is the floor of a sixteenth of the exact product, between -1016 and 1024, and its wrap
never changes it; the rule's corner cases. -/
def Obligations.DiscriminatorIsExact : Prop :=
  (∀ s d : Sample,
    discriminate s d = (s.toInt * d.toInt) / 16 ∧ -1016 ≤ discriminate s d ∧ discriminate s d ≤ 1024) ∧
  discriminate (-128) (-128) = 1024 ∧ discriminate (-128) 127 = -1016 ∧ discriminate 1 (-1) = -1 ∧
  (∀ s : Sample, discriminate s 0 = 0 ∧ discriminate 0 s = 0) ∧ discriminate (-50) 100 = -313

/-- R140: the whole effect of `RXS`: discriminator and filter, the shift of the delay line and the filter cells, the
bit clock, and, in a call that decides a bit, that bit to the framer. -/
def Obligations.RxsIsFilterThenClockThenFramer : Prop :=
  (∀ x : Sample, decode (0x10000 + x.setWidth 20) = .ok (.rxs x)) ∧
  ∀ (x : Sample) (s : State), s.initialised = true →
    let x0 := ((x.toInt * s.rx.delay.c3.toInt) / 16).bmod 65536
    let y0 := (x0 + 2 * s.rx.x1.toInt + s.rx.x2.toInt
      + (15 * s.rx.y1.toInt - 5 * s.rx.y2.toInt) / 16).bmod 65536
    let g := { s.rx with
      delay := ⟨x, s.rx.delay.c0, s.rx.delay.c1, s.rx.delay.c2⟩
      x1 := BitVec.ofInt 16 x0, x2 := s.rx.x1, y1 := BitVec.ofInt 16 y0, y2 := s.rx.y1 }
    let c := clockStep (decide (y0 > 0)) g
    let r : RxSide := if c.1 then hdlcRxBit s.params (!decide (y0 > 0)) ⟨c.2, s.status, s.rxq⟩
      else ⟨c.2, s.status, s.rxq⟩
    exec (.rxs x) s = .next { s with rx := r.rx, status := r.status, rxq := r.rxq, result := none }

/-- R61, R140 to R144: the signal registers after `RXS`, whatever the clock and the framer do in the same call. -/
def Obligations.RxsMovesTheSignalRegisters : Prop :=
  ∀ (x : Sample) (s : State), s.initialised = true → ∃ t, exec (.rxs x) s = .next t ∧
    t.rx.delay = ⟨x, s.rx.delay.c0, s.rx.delay.c1, s.rx.delay.c2⟩ ∧
    t.rx.x1.toInt = (x.toInt * s.rx.delay.c3.toInt) / 16 ∧ t.rx.x2 = s.rx.x1 ∧
    t.rx.y1.toInt = (t.rx.x1.toInt + 2 * s.rx.x1.toInt + s.rx.x2.toInt
      + (15 * s.rx.y1.toInt - 5 * s.rx.y2.toInt) / 16).bmod 65536 ∧ t.rx.y2 = s.rx.y1 ∧
    t.rx.lastPol = decide (t.rx.y1.toInt > 0)

/-- R52, R68: what `RXS` leaves alone: everything but the receive group, `STATUS`, the receive queue and the result. It
pushes at most one byte, when there is room; it writes `STATUS` only by setting bit 0, and then the queue was full and
is unchanged. -/
def Obligations.RxsTouchesOnlyTheReceiveSide : Prop :=
  ∀ (x : Sample) (s t : State), exec (.rxs x) s = .next t →
    t = { s with rx := t.rx, status := t.status, rxq := t.rxq, result := none } ∧
    ((t.status = s.status ∧ t.rxq = s.rxq) ∨
     (t.status = s.status ∧ s.rxq.length < s.params.rxqCap ∧ ∃ b, t.rxq = s.rxq ++ [b]) ∨
     (t.status = s.status ||| 0x01 ∧ s.params.rxqCap ≤ s.rxq.length ∧ t.rxq = s.rxq))

/-- R148, law L6: after `INIT` and any legal operations, any input samples among them, the discriminator cells lie
between -1016 and 1024 and the filter cells within 11800 of 0. -/
def Obligations.FilterNeverOverflows : Prop :=
  ∀ (trace : List Instr) (s : State), ∃ t, runTrace (.init :: trace) s = .next t ∧
    -1016 ≤ t.rx.x1.toInt ∧ t.rx.x1.toInt ≤ 1024 ∧ -1016 ≤ t.rx.x2.toInt ∧ t.rx.x2.toInt ≤ 1024 ∧
    -11800 ≤ t.rx.y1.toInt ∧ t.rx.y1.toInt ≤ 11800 ∧ -11800 ≤ t.rx.y2.toInt ∧ t.rx.y2.toInt ≤ 11800

/-- R165's table of one call of `ClockStep`: by the phase before, the phase after and whether a bit is decided, with a
transition seen and no nudge spent (second row of values) and otherwise (first row); the raw count, the remembered
polarity, and everything else of the group. -/
def Obligations.ClockStepFollowsItsTable : Prop :=
  ∀ (pol : Bool) (g : RxGroup), g.phase ≤ 7 → g.rawCnt ≤ 8 →
    let nudged := pol ≠ g.lastPol ∧ g.rawCnt = g.phase
    let phase := if nudged then [2, 3, 4, 5, 5, 5, 6, 7].getD g.phase.toNat 0
      else [1, 2, 3, 4, 5, 6, 7, 0].getD g.phase.toNat 0
    let decides := g.phase = 7 ∧ ¬ nudged
    clockStep pol g =
      (decide decides,
       { g with lastPol := pol, phase := phase, rawCnt := if decides then 0 else g.rawCnt + 1 })

/-- R160, law L7: a bit interval is 8 calls when no nudge was applied, 7 after an advance, 9 after a retard: in a call
that decides a bit the raw count, this call included, is one of them, and otherwise it has grown by one. -/
def Obligations.BitIntervalsAreSevenEightOrNine : Prop :=
  ∀ (x : Sample) (s t : State), Inv s → exec (.rxs x) s = .next t →
    (t.rx.rawCnt = 0 ∧ t.rx.phase = 0 ∧
      ((s.rx.rawCnt.toNat + 1 = 8 ∧ s.rx.phase = s.rx.rawCnt) ∨
       (s.rx.rawCnt.toNat + 1 = 7 ∧ s.rx.phase = s.rx.rawCnt + 1) ∨
       (s.rx.rawCnt.toNat + 1 = 9 ∧ s.rx.phase + 1 = s.rx.rawCnt))) ∨
    (t.rx.rawCnt.toNat = s.rx.rawCnt.toNat + 1)

/-- R162: with transitions every `8 * k` calls the phase at a transition moves by one toward 4 at each transition and
stays at 4, so it is 4 after at most four transitions, from any phase; then a bit is decided in the third call after
the one that saw the transition and every eighth call after that. -/
def Obligations.ClockLocksInFourTransitions : Prop :=
  (∀ (g : RxGroup) (k : Nat), g.phase ≤ 7 → g.rawCnt = g.phase → 1 ≤ k →
    let r := clockRun (halfWave k (!g.lastPol)) g
    r.2.lastPol = !g.lastPol ∧ r.2.rawCnt = r.2.phase ∧
    (g.phase < 4 → r.2.phase = g.phase + 1) ∧
    (4 < g.phase → r.2.phase = g.phase - 1) ∧
    (g.phase = 4 → r.2.phase = 4 ∧ r.1 = (List.range (8 * k)).map fun j => decide (j % 8 = 3))) ∧
  (∀ (g : RxGroup) (k₁ k₂ k₃ k₄ : Nat), g.phase ≤ 7 → g.rawCnt = g.phase → 1 ≤ k₁ → 1 ≤ k₂ → 1 ≤ k₃ → 1 ≤ k₄ →
    let p := !g.lastPol
    (clockRun (halfWave k₁ p ++ halfWave k₂ (!p) ++ halfWave k₃ p ++ halfWave k₄ (!p)) g).2.phase = 4)

/-! The HDLC engine on receive -/

/-- R107, R108, R109: the seventh and every further consecutive one is an abort, the zero after exactly six ones a flag,
the zero after exactly five ones is dropped; nothing else of the receive side changes. -/
def Obligations.RunsOfOnesAreAbortFlagOrStuffing : Prop :=
  ∀ (p : Params) (r : RxSide),
    (6 ≤ r.rx.ones →
      hdlcRxBit p true r = { r with rx := { r.rx with ones := 7, sync := false, bitCnt := 0 } }) ∧
    (r.rx.ones = 6 →
      hdlcRxBit p false r = { r with rx := { r.rx with ones := 0, sync := true, bitCnt := 0 } }) ∧
    (r.rx.ones = 5 → hdlcRxBit p false r = { r with rx := { r.rx with ones := 0 } })

/-- R110, R111, R112: a kept bit is shifted in by `BIT_ORDER`, counted only while receiving, and the eighth completes a
byte, which is pushed, or dropped with `OVR` set when the queue is full. That a bit kept while hunting is shifted in too
is one of the two ways R110 allows, and the model's choice of the pseudocode's (log 9). -/
def Obligations.KeptBitsAssembleBytes : Prop :=
  ∀ (p : Params) (b : Bool) (r : RxSide),
    ((b = true ∧ r.rx.ones < 6) ∨ (b = false ∧ r.rx.ones ≠ 5 ∧ r.rx.ones ≠ 6)) →
    let shift := match p.bitOrder with
      | .lsbFirst => (r.rx.shift >>> 1) ||| (if b then 0x80 else 0)
      | .msbFirst => (r.rx.shift <<< 1) ||| (if b then 1 else 0)
    let ones := if b then r.rx.ones + 1 else 0
    (r.rx.sync = false → hdlcRxBit p b r = { r with rx := { r.rx with shift := shift, ones := ones } }) ∧
    (r.rx.sync = true → r.rx.bitCnt ≠ 7 →
      hdlcRxBit p b r = { r with rx := { r.rx with shift := shift, ones := ones, bitCnt := r.rx.bitCnt + 1 } }) ∧
    (r.rx.sync = true → r.rx.bitCnt = 7 → r.rxq.length < p.rxqCap →
      hdlcRxBit p b r =
        { r with rx := { r.rx with shift := shift, ones := ones, bitCnt := 0 }, rxq := r.rxq ++ [shift] }) ∧
    (r.rx.sync = true → r.rx.bitCnt = 7 → p.rxqCap ≤ r.rxq.length →
      hdlcRxBit p b r =
        { r with rx := { r.rx with shift := shift, ones := ones, bitCnt := 0 }, status := r.status ||| 0x01 })

/-- R114: from every state, a zero, six ones and a zero end synchronized and aligned; a zero and seven or more ones end
hunting. -/
def Obligations.FlagsAndAbortsAreAlwaysRecognized : Prop :=
  ∀ (p : Params) (r : RxSide),
    ((feed p flagBits r).rx.sync = true ∧ (feed p flagBits r).rx.bitCnt = 0) ∧
    (∀ n, 7 ≤ n →
      (feed p (false :: List.replicate n true) r).rx.sync = false ∧
      (feed p (false :: List.replicate n true) r).rx.bitCnt = 0)

/-- R113, the stuffing round trip: between two flags, from every state, exactly the data bits are kept, and then the
closing flag's opening zero and six ones; when they are whole bytes, 0x7E among them, exactly those bytes are pushed,
provided the queue does not fill. -/
def Obligations.StuffingRoundTrip : Prop :=
  ∀ (p : Params) (r : RxSide),
    (∀ bits : List Bool,
      keptBits p (stuffed bits ++ flagBits) (feed p flagBits r) =
        bits ++ [false, true, true, true, true, true, true]) ∧
    (∀ bytes : List Byte, (feed p flagBits r).rxq.length + bytes.length ≤ p.rxqCap →
      (feed p (stuffed (bytes.flatMap (byteBits p.bitOrder)) ++ flagBits) (feed p flagBits r)).rxq =
        (feed p flagBits r).rxq ++ bytes ∧
      (feed p (stuffed (bytes.flatMap (byteBits p.bitOrder)) ++ flagBits) (feed p flagBits r)).status =
        (feed p flagBits r).status)

/-- Law L1: a hunting receiver fed with the bits the transmitter chooses for its queued bytes, behind at least one
preamble flag and in the same bit order, pushes exactly those bytes, the queued flags consumed as boundaries.
`AnyReceiverRecoversAFlaggedTransmission` says it for a receiver in any state and for a queued leading flag. -/
def Obligations.ReceiverRecoversTheTransmission : Prop :=
  ∀ (p : Params) (c : TxConfig) (d : TxSide) (r : RxSide),
    c.bitOrder = p.bitOrder → d.tx.state = .idle → d.txq ≠ [] → nFlags c.preamble ≠ 0 → r.rx.sync = false →
    r.rxq.length + (d.txq.filter (fun b => b ≠ 0x7E)).length ≤ p.rxqCap →
    (feed p (bitSteps c (wire c d.txq).length d).1 r).rxq = r.rxq ++ d.txq.filter (fun b => b ≠ 0x7E) ∧
    (feed p (bitSteps c (wire c d.txq).length d).1 r).status = r.status

/-- R147: with silence from `INIT` on, every filter value is 0, every decided bit is 1, the ones counter saturates, the
framer hunts, and neither a byte nor a status bit comes of it. -/
def Obligations.SilenceIsIdleMark : Prop :=
  ∀ (n : Nat) (s : State), ∃ t, runTrace (.init :: List.replicate n (.rxs 0)) s = .next t ∧
    t.rx.x1 = 0 ∧ t.rx.x2 = 0 ∧ t.rx.y1 = 0 ∧ t.rx.y2 = 0 ∧ t.rx.lastPol = false ∧
    t.rx.phase.toNat = n % 8 ∧ t.rx.ones.toNat = min 7 (n / 8) ∧
    t.rx.sync = false ∧ t.rxq = [] ∧ t.status = 0x00

/-- R53: the only transitions of `rx_sync`: the decided 0 after exactly six ones sets it, the seventh consecutive
decided 1 clears it, both with the alignment count at 0, and `INIT` clears it. (In a call that decides a bit the raw
count becomes 0, and the bit is 0 when the polarity is 1.) -/
def Obligations.SyncTransitionsAreTheTables : Prop :=
  ∀ (i : Instr) (s t : State), Inv s → exec i s = .next t → t.rx.sync ≠ s.rx.sync →
    (i = .init ∧ t.rx.sync = false) ∨
    (∃ x, i = .rxs x ∧ t.rx.rawCnt = 0 ∧ t.rx.bitCnt = 0 ∧ s.rx.ones = 6 ∧
      ((t.rx.sync = true ∧ t.rx.lastPol = true ∧ t.rx.ones = 0) ∨
       (t.rx.sync = false ∧ t.rx.lastPol = false ∧ t.rx.ones = 7)))

/-! Whole-machine rules -/

/-- R188, law L9: `OVR`, once set, stays set through every operation but `STCL` and `INIT`; only an `RXS` that decides a
bit sets it, and then the receive queue was full and is unchanged. -/
def Obligations.OverrunIsStickyAndOnlyFromRxs : Prop :=
  ∀ (i : Instr) (s t : State), Inv s → exec i s = .next t →
    (s.status.getLsbD 0 = true → i ≠ .stcl → i ≠ .init → t.status.getLsbD 0 = true) ∧
    (s.status.getLsbD 0 = false → t.status.getLsbD 0 = true →
      ∃ x, i = .rxs x ∧ t.rx.rawCnt = 0 ∧ t.rx.bitCnt = 0 ∧
        s.params.rxqCap ≤ s.rxq.length ∧ t.rxq = s.rxq)

/-- R52: which operation may write which state. -/
def Obligations.StateIsWrittenOnlyByItsOwner : Prop :=
  ∀ (i : Instr) (s t : State), exec i s = .next t →
    (t.tx ≠ s.tx → i = .txs ∨ i = .init) ∧
    (t.rx ≠ s.rx → (∃ x, i = .rxs x) ∨ i = .init) ∧
    (t.status ≠ s.status → (∃ x, i = .rxs x) ∨ i = .stcl ∨ i = .init) ∧
    (t.cfgPreamble ≠ s.cfgPreamble ∨ t.cfgTail ≠ s.cfgTail ∨ t.cfgChannel ≠ s.cfgChannel → i = .init) ∧
    (t.txq ≠ s.txq →
      (∃ b, i = .txw b ∧ t.txq = s.txq ++ [b]) ∨ (i = .txs ∧ ∃ b, s.txq = b :: t.txq) ∨ (i = .init ∧ t.txq = [])) ∧
    (t.rxq ≠ s.rxq →
      (∃ x b, i = .rxs x ∧ t.rxq = s.rxq ++ [b]) ∨ (i = .rxr ∧ ∃ b, s.rxq = b :: t.rxq) ∨
      (i = .init ∧ t.rxq = []))

/-- R73, law L10: `RXS` and `TXS` in either order reach the same state, but for the result the last of them returned. -/
def Obligations.OrderInsideAPeriodDoesNotMatter : Prop :=
  ∀ (x : Sample) (s : State), s.initialised = true →
    ∃ t1 t2 r1 r2, exec .txs s = .next t1 ∧ exec (.rxs x) t1 = .next t2 ∧
      exec (.rxs x) s = .next r1 ∧ exec .txs r1 = .next r2 ∧
      forgetResult t2 = forgetResult r2 ∧ t1.result = r2.result

/-- R199, law L10: what `RXS` leaves of the receive side depends on the receive side and the parameters alone, and what
`TXS` leaves of the transmit side and returns on the transmit side, the bit order and the two lengths alone. -/
def Obligations.TheTwoPathsAreIndependent : Prop :=
  (∀ (x : Sample) (s s' t t' : State), s.params = s'.params → s.rx = s'.rx → s.status = s'.status → s.rxq = s'.rxq →
    exec (.rxs x) s = .next t → exec (.rxs x) s' = .next t' →
    t.rx = t'.rx ∧ t.status = t'.status ∧ t.rxq = t'.rxq) ∧
  (∀ s s' t t' : State, s.params.bitOrder = s'.params.bitOrder → s.cfgPreamble = s'.cfgPreamble →
    s.cfgTail = s'.cfgTail → s.tx = s'.tx → s.txq = s'.txq →
    exec .txs s = .next t → exec .txs s' = .next t' →
    t.tx = t'.tx ∧ t.txq = t'.txq ∧ t.result = t'.result)

/-- R208: the straps are read by `INIT`, which latches them, and by nothing else; no operation changes a strap or an
open parameter. That no operation changes the pending words rests on the model's own list of them (log 1). -/
def Obligations.StrapsAreReadOnlyByInit : Prop :=
  (∀ (i : Instr) (s t : State) (st : Straps), i ≠ .init → exec i s = .next t →
    exec i (s.setStraps st) = .next (t.setStraps st)) ∧
  (∀ (s : State) (st : Straps), ∃ t, exec .init (s.setStraps st) = .next t ∧
    t.cfgPreamble = st.preambleBits ∧ t.cfgTail = st.tailBits ∧ t.cfgChannel = st.channel) ∧
  (∀ (i : Instr) (s t : State), exec i s = .next t →
    t.params = s.params ∧ t.straps = s.straps ∧ t.pending = s.pending)

/-- R177: the continuous outputs are the registers `sending` and `CFG_CHANNEL`; they change only inside `TXS` or `INIT`,
and only inside `INIT`. -/
def Obligations.ContinuousOutputsChangeOnlyInside : Prop :=
  ∀ (i : Instr) (s t : State), exec i s = .next t →
    (t.txEnable = t.tx.sending ∧ t.adcChannel = t.cfgChannel) ∧
    (t.txEnable ≠ s.txEnable → i = .txs ∨ i = .init) ∧
    (t.adcChannel ≠ s.adcChannel → i = .init)

/-- Law L1 and R89, R103, R113, R114 for a receiver in any state: the transmission's first flag, one of the preamble or
a queued 0x7E sent first, aligns it, and from what that flag leaves exactly the queued bytes other than 0x7E are pushed,
provided they fit. A receiver that was hunting has pushed and recorded nothing by then. -/
def Obligations.AnyReceiverRecoversAFlaggedTransmission : Prop :=
  ∀ (p : Params) (c : TxConfig) (d : TxSide) (r : RxSide),
    c.bitOrder = p.bitOrder → d.tx.state = .idle → d.txq ≠ [] →
    (nFlags c.preamble ≠ 0 ∨ d.txq.head? = some 0x7E) →
    let flagged := feed p flagBits r
    let data := d.txq.filter (fun b => b ≠ 0x7E)
    let done := feed p (bitSteps c (wire c d.txq).length d).1 r
    (r.rx.sync = false → flagged.rxq = r.rxq ∧ flagged.status = r.status) ∧
    (flagged.rxq.length + data.length ≤ p.rxqCap →
      done.rxq = flagged.rxq ++ data ∧ done.status = flagged.status)
end

