-- ==== Sys2Proof/Laws/State.lean ====
section
/-! SUPPORT. One lemma per field per named update of State, so that no proof unfolds a record update. -/

namespace Sys2Proof.Machine

/-! `withTxSide` -/

@[simp] theorem State.withTxSide_params (s : State) (d : TxSide) : (s.withTxSide d).params = s.params := rfl
@[simp] theorem State.withTxSide_straps (s : State) (d : TxSide) : (s.withTxSide d).straps = s.straps := rfl
@[simp] theorem State.withTxSide_pending (s : State) (d : TxSide) : (s.withTxSide d).pending = s.pending := rfl
@[simp] theorem State.withTxSide_initialised (s : State) (d : TxSide) : (s.withTxSide d).initialised = s.initialised := rfl
@[simp] theorem State.withTxSide_result (s : State) (d : TxSide) : (s.withTxSide d).result = s.result := rfl
@[simp] theorem State.withTxSide_tx (s : State) (d : TxSide) : (s.withTxSide d).tx = d.tx := rfl
@[simp] theorem State.withTxSide_rx (s : State) (d : TxSide) : (s.withTxSide d).rx = s.rx := rfl
@[simp] theorem State.withTxSide_status (s : State) (d : TxSide) : (s.withTxSide d).status = s.status := rfl
@[simp] theorem State.withTxSide_cfgPreamble (s : State) (d : TxSide) : (s.withTxSide d).cfgPreamble = s.cfgPreamble := rfl
@[simp] theorem State.withTxSide_cfgTail (s : State) (d : TxSide) : (s.withTxSide d).cfgTail = s.cfgTail := rfl
@[simp] theorem State.withTxSide_cfgChannel (s : State) (d : TxSide) : (s.withTxSide d).cfgChannel = s.cfgChannel := rfl
@[simp] theorem State.withTxSide_txq (s : State) (d : TxSide) : (s.withTxSide d).txq = d.txq := rfl
@[simp] theorem State.withTxSide_rxq (s : State) (d : TxSide) : (s.withTxSide d).rxq = s.rxq := rfl

/-! `withRxSide` -/

@[simp] theorem State.withRxSide_params (s : State) (r : RxSide) : (s.withRxSide r).params = s.params := rfl
@[simp] theorem State.withRxSide_straps (s : State) (r : RxSide) : (s.withRxSide r).straps = s.straps := rfl
@[simp] theorem State.withRxSide_pending (s : State) (r : RxSide) : (s.withRxSide r).pending = s.pending := rfl
@[simp] theorem State.withRxSide_initialised (s : State) (r : RxSide) : (s.withRxSide r).initialised = s.initialised := rfl
@[simp] theorem State.withRxSide_result (s : State) (r : RxSide) : (s.withRxSide r).result = s.result := rfl
@[simp] theorem State.withRxSide_tx (s : State) (r : RxSide) : (s.withRxSide r).tx = s.tx := rfl
@[simp] theorem State.withRxSide_rx (s : State) (r : RxSide) : (s.withRxSide r).rx = r.rx := rfl
@[simp] theorem State.withRxSide_status (s : State) (r : RxSide) : (s.withRxSide r).status = r.status := rfl
@[simp] theorem State.withRxSide_cfgPreamble (s : State) (r : RxSide) : (s.withRxSide r).cfgPreamble = s.cfgPreamble := rfl
@[simp] theorem State.withRxSide_cfgTail (s : State) (r : RxSide) : (s.withRxSide r).cfgTail = s.cfgTail := rfl
@[simp] theorem State.withRxSide_cfgChannel (s : State) (r : RxSide) : (s.withRxSide r).cfgChannel = s.cfgChannel := rfl
@[simp] theorem State.withRxSide_txq (s : State) (r : RxSide) : (s.withRxSide r).txq = s.txq := rfl
@[simp] theorem State.withRxSide_rxq (s : State) (r : RxSide) : (s.withRxSide r).rxq = r.rxq := rfl

/-! `issue` -/

@[simp] theorem State.issue_params (s : State) (w : OpWord) : (s.issue w).params = s.params := rfl
@[simp] theorem State.issue_straps (s : State) (w : OpWord) : (s.issue w).straps = s.straps := rfl
@[simp] theorem State.issue_pending (s : State) (w : OpWord) : (s.issue w).pending = s.pending ++ [w] := rfl
@[simp] theorem State.issue_initialised (s : State) (w : OpWord) : (s.issue w).initialised = s.initialised := rfl
@[simp] theorem State.issue_result (s : State) (w : OpWord) : (s.issue w).result = s.result := rfl
@[simp] theorem State.issue_tx (s : State) (w : OpWord) : (s.issue w).tx = s.tx := rfl
@[simp] theorem State.issue_rx (s : State) (w : OpWord) : (s.issue w).rx = s.rx := rfl
@[simp] theorem State.issue_status (s : State) (w : OpWord) : (s.issue w).status = s.status := rfl
@[simp] theorem State.issue_cfgPreamble (s : State) (w : OpWord) : (s.issue w).cfgPreamble = s.cfgPreamble := rfl
@[simp] theorem State.issue_cfgTail (s : State) (w : OpWord) : (s.issue w).cfgTail = s.cfgTail := rfl
@[simp] theorem State.issue_cfgChannel (s : State) (w : OpWord) : (s.issue w).cfgChannel = s.cfgChannel := rfl
@[simp] theorem State.issue_txq (s : State) (w : OpWord) : (s.issue w).txq = s.txq := rfl
@[simp] theorem State.issue_rxq (s : State) (w : OpWord) : (s.issue w).rxq = s.rxq := rfl

/-! `setStraps` -/

@[simp] theorem State.setStraps_params (s : State) (st : Straps) : (s.setStraps st).params = s.params := rfl
@[simp] theorem State.setStraps_straps (s : State) (st : Straps) : (s.setStraps st).straps = st := rfl
@[simp] theorem State.setStraps_pending (s : State) (st : Straps) : (s.setStraps st).pending = s.pending := rfl
@[simp] theorem State.setStraps_initialised (s : State) (st : Straps) : (s.setStraps st).initialised = s.initialised := rfl
@[simp] theorem State.setStraps_result (s : State) (st : Straps) : (s.setStraps st).result = s.result := rfl
@[simp] theorem State.setStraps_tx (s : State) (st : Straps) : (s.setStraps st).tx = s.tx := rfl
@[simp] theorem State.setStraps_rx (s : State) (st : Straps) : (s.setStraps st).rx = s.rx := rfl
@[simp] theorem State.setStraps_status (s : State) (st : Straps) : (s.setStraps st).status = s.status := rfl
@[simp] theorem State.setStraps_cfgPreamble (s : State) (st : Straps) : (s.setStraps st).cfgPreamble = s.cfgPreamble := rfl
@[simp] theorem State.setStraps_cfgTail (s : State) (st : Straps) : (s.setStraps st).cfgTail = s.cfgTail := rfl
@[simp] theorem State.setStraps_cfgChannel (s : State) (st : Straps) : (s.setStraps st).cfgChannel = s.cfgChannel := rfl
@[simp] theorem State.setStraps_txq (s : State) (st : Straps) : (s.setStraps st).txq = s.txq := rfl
@[simp] theorem State.setStraps_rxq (s : State) (st : Straps) : (s.setStraps st).rxq = s.rxq := rfl

/-! `withFetchWord` -/

@[simp] theorem State.withFetchWord_params (s : State) (n w : Nat) : (s.withFetchWord n w).params = s.params := rfl
@[simp] theorem State.withFetchWord_straps (s : State) (n w : Nat) : (s.withFetchWord n w).straps = s.straps := rfl
@[simp] theorem State.withFetchWord_pending (s : State) (n w : Nat) : (s.withFetchWord n w).pending = (tableWord n w).getD noOperationWord :: s.pending := rfl
@[simp] theorem State.withFetchWord_initialised (s : State) (n w : Nat) : (s.withFetchWord n w).initialised = s.initialised := rfl
@[simp] theorem State.withFetchWord_result (s : State) (n w : Nat) : (s.withFetchWord n w).result = s.result := rfl
@[simp] theorem State.withFetchWord_tx (s : State) (n w : Nat) : (s.withFetchWord n w).tx = s.tx := rfl
@[simp] theorem State.withFetchWord_rx (s : State) (n w : Nat) : (s.withFetchWord n w).rx = s.rx := rfl
@[simp] theorem State.withFetchWord_status (s : State) (n w : Nat) : (s.withFetchWord n w).status = s.status := rfl
@[simp] theorem State.withFetchWord_cfgPreamble (s : State) (n w : Nat) : (s.withFetchWord n w).cfgPreamble = s.cfgPreamble := rfl
@[simp] theorem State.withFetchWord_cfgTail (s : State) (n w : Nat) : (s.withFetchWord n w).cfgTail = s.cfgTail := rfl
@[simp] theorem State.withFetchWord_cfgChannel (s : State) (n w : Nat) : (s.withFetchWord n w).cfgChannel = s.cfgChannel := rfl
@[simp] theorem State.withFetchWord_txq (s : State) (n w : Nat) : (s.withFetchWord n w).txq = s.txq := rfl
@[simp] theorem State.withFetchWord_rxq (s : State) (n w : Nat) : (s.withFetchWord n w).rxq = s.rxq := rfl

/-! `forgetResult` -/

@[simp] theorem State.forgetResult_params (s : State) : (Safety.forgetResult s).params = s.params := rfl
@[simp] theorem State.forgetResult_straps (s : State) : (Safety.forgetResult s).straps = s.straps := rfl
@[simp] theorem State.forgetResult_pending (s : State) : (Safety.forgetResult s).pending = s.pending := rfl
@[simp] theorem State.forgetResult_initialised (s : State) : (Safety.forgetResult s).initialised = s.initialised := rfl
@[simp] theorem State.forgetResult_result (s : State) : (Safety.forgetResult s).result = none := rfl
@[simp] theorem State.forgetResult_tx (s : State) : (Safety.forgetResult s).tx = s.tx := rfl
@[simp] theorem State.forgetResult_rx (s : State) : (Safety.forgetResult s).rx = s.rx := rfl
@[simp] theorem State.forgetResult_status (s : State) : (Safety.forgetResult s).status = s.status := rfl
@[simp] theorem State.forgetResult_cfgPreamble (s : State) : (Safety.forgetResult s).cfgPreamble = s.cfgPreamble := rfl
@[simp] theorem State.forgetResult_cfgTail (s : State) : (Safety.forgetResult s).cfgTail = s.cfgTail := rfl
@[simp] theorem State.forgetResult_cfgChannel (s : State) : (Safety.forgetResult s).cfgChannel = s.cfgChannel := rfl
@[simp] theorem State.forgetResult_txq (s : State) : (Safety.forgetResult s).txq = s.txq := rfl
@[simp] theorem State.forgetResult_rxq (s : State) : (Safety.forgetResult s).rxq = s.rxq := rfl

/-! The two sides of a state -/

@[simp] theorem State.txSide_tx (s : State) : s.txSide.tx = s.tx := rfl
@[simp] theorem State.txSide_txq (s : State) : s.txSide.txq = s.txq := rfl
@[simp] theorem State.rxSide_rx (s : State) : s.rxSide.rx = s.rx := rfl
@[simp] theorem State.rxSide_status (s : State) : s.rxSide.status = s.status := rfl
@[simp] theorem State.rxSide_rxq (s : State) : s.rxSide.rxq = s.rxq := rfl
@[simp] theorem State.txConfig_bitOrder (s : State) : s.txConfig.bitOrder = s.params.bitOrder := rfl
@[simp] theorem State.txConfig_preamble (s : State) : s.txConfig.preamble = s.cfgPreamble := rfl
@[simp] theorem State.txConfig_tail (s : State) : s.txConfig.tail = s.cfgTail := rfl
@[simp] theorem State.withTxSide_txSide (s : State) : s.withTxSide s.txSide = s := rfl
@[simp] theorem State.withRxSide_rxSide (s : State) : s.withRxSide s.rxSide = s := rfl

/-- Replacing the transmit side and replacing the receive side commute: they share no field (R52). -/
theorem State.withTxSide_withRxSide (s : State) (d : TxSide) (r : RxSide) :
    (s.withTxSide d).withRxSide r = (s.withRxSide r).withTxSide d := rfl

end Sys2Proof.Machine
end

