-- ==== Sys2Proof/Laws/Ops.lean ====
section
/-! SUPPORT. What the shared operations do, each said once: how an operation ends, the queues, the integer arithmetic,
the constants. -/

namespace Sys2Proof.Machine

/-! The constants -/

@[simp] theorem samplesPerBit_eq : samplesPerBit = 8 := rfl
@[simp] theorem flagByte_eq : flagByte = 0x7E#8 := rfl
@[simp] theorem stuffRun_eq : stuffRun = 5#3 := rfl
@[simp] theorem flagRun_eq : flagRun = 6#3 := rfl
@[simp] theorem abortRun_eq : abortRun = 7#3 := rfl
@[simp] theorem lockPoint_eq : lockPoint = 4 := rfl
@[simp] theorem nudge_eq : nudge = 1 := rfl
@[simp] theorem markInc_eq : markInc = 8192#16 := rfl
@[simp] theorem spaceInc_eq : spaceInc = 15019#16 := rfl

/-! How an operation ends -/

/-- `whenInitialised` answers a next state exactly on an initialised instance, and then the one given. -/
theorem whenInitialised_next_iff (s t u : State) :
    whenInitialised s t = .next u ↔ s.initialised = true ∧ t = u := by
  unfold whenInitialised
  split <;> simp_all

/-- `whenInitialised` never faults. -/
theorem whenInitialised_ne_fault (s t : State) (f : Fault) : whenInitialised s t ≠ .fault f := nomatch f

@[simp] theorem whenInitialised_of_true {s : State} (t : State) (h : s.initialised = true) :
    whenInitialised s t = .next t := by
  simp [whenInitialised, h]

@[simp] theorem whenInitialised_of_false {s : State} (t : State) (h : s.initialised = false) :
    whenInitialised s t = .refused .notInitialised := by
  simp [whenInitialised, h]

/-! Integer arithmetic -/

@[simp] theorem asS_wrapU (n : Nat) (v : Int) : asS (wrapU n v) = v.bmod (2 ^ n) := by
  simp [asS, wrapU]

@[simp] theorem wrapS_eq (n : Nat) (v : Int) : wrapS n v = v.bmod (2 ^ n) := asS_wrapU n v

@[simp] theorem wrapU_wrapS (n : Nat) (v : Int) : wrapU n (wrapS n v) = wrapU n v := by
  apply BitVec.eq_of_toInt_eq
  simp [wrapS, asS, wrapU]

/-- A value in the range of `sN` is not changed by the wrap (R12). -/
theorem wrapS_of_range {v : Int} (lo : -32768 ≤ v) (hi : v ≤ 32767) : wrapS 16 v = v := by
  rw [wrapS_eq]
  exact Int.bmod_eq_of_le (by omega) (by omega)

/-- `sra` is the floor: the largest integer whose multiple does not exceed the value (R12). -/
theorem sra_floor (v : Int) (k : Nat) : sra v k * 2 ^ k ≤ v ∧ v < (sra v k + 1) * 2 ^ k := by
  have hpos : (0 : Int) < 2 ^ k := by positivity
  refine ⟨Int.ediv_mul_le v hpos.ne', ?_⟩
  have := Int.lt_ediv_add_one_mul_self v hpos
  simpa [sra] using this

/-- The number of flags as a number: the bit count divided by 8 and rounded up, at most 8192 (R121). -/
theorem nFlags_le (n : BitVec 16) : (nFlags n).toNat ≤ 8192 := by
  have hn := n.isLt
  simp only [nFlags, wrapU, sra, BitVec.toNat_ofInt]
  omega

/-! The queues -/

theorem qEmpty_iff (q : List Byte) : qEmpty q = true ↔ q = [] := by simp [qEmpty]

theorem qFull_iff (cap : Nat) (q : List Byte) : qFull cap q = true ↔ cap ≤ q.length := by
  unfold qFull qLen
  exact decide_eq_true_iff

theorem qFull_of_room {cap : Nat} {q : List Byte} (h : q.length < cap) : qFull cap q = false :=
  Bool.eq_false_iff.2 fun hf => absurd ((qFull_iff cap q).1 hf) (by omega)

theorem qPush_of_full {cap : Nat} {q : List Byte} (b : Byte) (h : cap ≤ q.length) : qPush cap q b = (false, q) := by
  simp [qPush, (qFull_iff cap q).2 h]

theorem qPush_of_room {cap : Nat} {q : List Byte} (b : Byte) (h : q.length < cap) :
    qPush cap q b = (true, q ++ [b]) := by
  simp [qPush, qFull_of_room h]

/-- A push keeps a queue within its capacity (R64, R65). -/
theorem qPush_length_le {cap : Nat} {q : List Byte} (b : Byte) (h : q.length ≤ cap) :
    (qPush cap q b).2.length ≤ cap := by
  rcases Nat.lt_or_ge q.length cap with hlt | hge
  · simp [qPush_of_room b hlt]; omega
  · simpa [qPush_of_full b hge] using h

@[simp] theorem qPop_nil : qPop [] = none := rfl
@[simp] theorem qPop_cons (b : Byte) (q : List Byte) : qPop (b :: q) = some (b, q) := rfl

/-- A pop leaves the rest, in order (R66). -/
theorem qPop_some {q rest : List Byte} {b : Byte} (h : qPop q = some (b, rest)) : q = b :: rest := by
  cases q with
  | nil => simp at h
  | cons c cs => simp at h; simp [h]

/-! The delay line -/

@[simp] theorem DelayLine.push_c0 (d : DelayLine) (s : Sample) : (d.push s).c0 = s := rfl
@[simp] theorem DelayLine.push_c1 (d : DelayLine) (s : Sample) : (d.push s).c1 = d.c0 := rfl
@[simp] theorem DelayLine.push_c2 (d : DelayLine) (s : Sample) : (d.push s).c2 = d.c1 := rfl
@[simp] theorem DelayLine.push_c3 (d : DelayLine) (s : Sample) : (d.push s).c3 = d.c2 := rfl

end Sys2Proof.Machine
end

