-- ==== Sys2Proof/Laws/Hdlc.lean ====
section
/-! SUPPORT. The HDLC engine: what its procedures change, each said once. -/

namespace Sys2Proof.Machine

/-! Receive direction -/

/-- The part of the receive group the framer neither reads nor writes (R105, R164). -/
def RxGroup.signalPart (g : RxGroup) : DelayLine × (S16 × S16 × S16 × S16) × Bool × BitVec 4 × BitVec 4 :=
  (g.delay, (g.x1, g.x2, g.y1, g.y2), g.lastPol, g.phase, g.rawCnt)

theorem completeByte_rx (cap : Nat) (r : RxSide) : (completeByte cap r).rx = r.rx := by
  unfold completeByte; split <;> rfl

/-- A completed byte either finds the queue full, and sets `OVR` and nothing else, or enters the queue and changes
nothing else (R112). -/
theorem completeByte_cases (cap : Nat) (r : RxSide) :
    (cap ≤ r.rxq.length ∧ completeByte cap r = { r with status := setOvr r.status }) ∨
    (r.rxq.length < cap ∧ completeByte cap r = { r with rxq := r.rxq ++ [r.rx.shift] }) := by
  rcases Nat.lt_or_ge r.rxq.length cap with hlt | hge
  · right
    refine ⟨hlt, ?_⟩
    simp [completeByte, qFull_of_room hlt, qPush_of_room _ hlt]
  · left
    exact ⟨hge, by simp [completeByte, (qFull_iff cap r.rxq).2 hge]⟩

/-- What a kept bit can do: shift only (hunting), shift and count, or shift, count and complete a byte (R110, R111). -/
theorem keepBit_cases (p : Params) (b : Bool) (r : RxSide) :
    (r.rx.sync = false ∧
      keepBit p b r = { r with rx := { r.rx with shift := shiftIn p.bitOrder r.rx.shift b } }) ∨
    (r.rx.sync = true ∧ r.rx.bitCnt ≠ 7 ∧
      keepBit p b r =
        { r with rx := { r.rx with shift := shiftIn p.bitOrder r.rx.shift b, bitCnt := r.rx.bitCnt + 1 } }) ∨
    (r.rx.sync = true ∧ r.rx.bitCnt = 7 ∧
      keepBit p b r = completeByte p.rxqCap
        { r with rx := { r.rx with shift := shiftIn p.bitOrder r.rx.shift b, bitCnt := 0 } }) := by
  have key : ∀ c : BitVec 3, c + 1#3 = 0#3 ↔ c = 7#3 := by decide
  unfold keepBit
  cases hs : r.rx.sync
  · simp
  · by_cases h7 : r.rx.bitCnt = 7#3
    · simp [h7]
    · have hne : ¬ r.rx.bitCnt + 1#3 = 0#3 := fun h => h7 ((key _).1 h)
      simp [h7, hne]

theorem keepBit_signalPart (p : Params) (b : Bool) (r : RxSide) :
    (keepBit p b r).rx.signalPart = r.rx.signalPart := by
  rcases keepBit_cases p b r with ⟨_, h⟩ | ⟨_, _, h⟩ | ⟨_, _, h⟩ <;>
    simp [h, completeByte_rx, RxGroup.signalPart]

theorem keepBit_ones (p : Params) (b : Bool) (r : RxSide) : (keepBit p b r).rx.ones = r.rx.ones := by
  rcases keepBit_cases p b r with ⟨_, h⟩ | ⟨_, _, h⟩ | ⟨_, _, h⟩ <;> simp [h, completeByte_rx]

theorem keepBit_sync (p : Params) (b : Bool) (r : RxSide) : (keepBit p b r).rx.sync = r.rx.sync := by
  rcases keepBit_cases p b r with ⟨_, h⟩ | ⟨_, _, h⟩ | ⟨_, _, h⟩ <;> simp [h, completeByte_rx]

/-- The queue keeps what it holds and gains at most one byte, within its capacity; `STATUS` changes only by `OVR`, and
then the queue was full and is unchanged. -/
def QueueStep (cap : Nat) (r r' : RxSide) : Prop :=
  (r'.status = r.status ∧ r'.rxq = r.rxq) ∨
  (r'.status = r.status ∧ r.rxq.length < cap ∧ ∃ b, r'.rxq = r.rxq ++ [b]) ∨
  (r'.status = setOvr r.status ∧ cap ≤ r.rxq.length ∧ r'.rxq = r.rxq)

theorem completeByte_queueStep (cap : Nat) (r : RxSide) : QueueStep cap r (completeByte cap r) := by
  rcases completeByte_cases cap r with ⟨hf, h⟩ | ⟨hr, h⟩
  · exact .inr (.inr ⟨by rw [h], hf, by rw [h]⟩)
  · exact .inr (.inl ⟨by rw [h], hr, r.rx.shift, by rw [h]⟩)

theorem keepBit_queueStep (p : Params) (b : Bool) (r : RxSide) : QueueStep p.rxqCap r (keepBit p b r) := by
  rcases keepBit_cases p b r with ⟨_, h⟩ | ⟨_, _, h⟩ | ⟨_, _, h⟩
  · exact .inl ⟨by rw [h], by rw [h]⟩
  · exact .inl ⟨by rw [h], by rw [h]⟩
  · rw [h]
    exact completeByte_queueStep p.rxqCap { r with rx := _ }

/-- The four things a decided bit can be, with what each leaves: an abort, a flag, a stuff zero, or a kept bit (R105). -/
theorem hdlcRxBit_cases (p : Params) (b : Bool) (r : RxSide) :
    (b = true ∧ countOne r.rx.ones = 7 ∧
      hdlcRxBit p b r = { r with rx := { r.rx with ones := 7, sync := false, bitCnt := 0 } }) ∨
    (b = false ∧ r.rx.ones = 6 ∧
      hdlcRxBit p b r = { r with rx := { r.rx with ones := 0, sync := true, bitCnt := 0 } }) ∨
    (b = false ∧ r.rx.ones = 5 ∧ hdlcRxBit p b r = { r with rx := { r.rx with ones := 0 } }) ∨
    (b = true ∧ countOne r.rx.ones ≠ 7 ∧
      hdlcRxBit p b r = keepBit p true { r with rx := { r.rx with ones := countOne r.rx.ones } }) ∨
    (b = false ∧ r.rx.ones ≠ 5 ∧ r.rx.ones ≠ 6 ∧
      hdlcRxBit p b r = keepBit p false { r with rx := { r.rx with ones := 0 } }) := by
  cases b
  · by_cases h6 : r.rx.ones = 6#3
    · simp [hdlcRxBit, h6]
    · by_cases h5 : r.rx.ones = 5#3
      · simp [hdlcRxBit, h5]
      · simp [hdlcRxBit, h5, h6]
  · by_cases h7 : countOne r.rx.ones = 7#3
    · simp [hdlcRxBit, h7]
    · simp [hdlcRxBit, h7]

/-- The framer touches nothing of the discriminator, the filter or the bit clock (R164, R189). -/
theorem hdlcRxBit_signalPart (p : Params) (b : Bool) (r : RxSide) :
    (hdlcRxBit p b r).rx.signalPart = r.rx.signalPart := by
  rcases hdlcRxBit_cases p b r with ⟨_, _, h⟩ | ⟨_, _, h⟩ | ⟨_, _, h⟩ | ⟨_, _, h⟩ | ⟨_, _, _, h⟩ <;> rw [h]
  · rfl
  · rfl
  · rfl
  · rw [keepBit_signalPart]; rfl
  · rw [keepBit_signalPart]; rfl

theorem hdlcRxBit_queueStep (p : Params) (b : Bool) (r : RxSide) : QueueStep p.rxqCap r (hdlcRxBit p b r) := by
  rcases hdlcRxBit_cases p b r with ⟨_, _, h⟩ | ⟨_, _, h⟩ | ⟨_, _, h⟩ | ⟨_, _, h⟩ | ⟨_, _, _, h⟩
  · exact .inl ⟨by rw [h], by rw [h]⟩
  · exact .inl ⟨by rw [h], by rw [h]⟩
  · exact .inl ⟨by rw [h], by rw [h]⟩
  · rw [h]; exact keepBit_queueStep p true { r with rx := _ }
  · rw [h]; exact keepBit_queueStep p false { r with rx := _ }

/-! Transmit direction -/

/-- `TxStuffCheck` either uses the bit step up with a stuff bit or changes nothing (R101). -/
theorem txStuffCheck_cases (t : TxGroup) :
    (t.nostuff = false ∧ t.ones = 5 ∧ txStuffCheck t = (true, { t with curBit := false, ones := 0 })) ∨
    (¬ (t.nostuff = false ∧ t.ones = 5) ∧ txStuffCheck t = (false, t)) := by
  by_cases h : t.nostuff = false ∧ t.ones = 5
  · exact .inl ⟨h.1, h.2, by simp [txStuffCheck, h]⟩
  · exact .inr ⟨h, if_neg h⟩

@[simp] theorem txDataBit_phase (o : BitOrder) (t : TxGroup) : (txDataBit o t).phase = t.phase := rfl
@[simp] theorem txDataBit_state (o : BitOrder) (t : TxGroup) : (txDataBit o t).state = t.state := rfl
@[simp] theorem txDataBit_sampleCtr (o : BitOrder) (t : TxGroup) : (txDataBit o t).sampleCtr = t.sampleCtr := rfl
@[simp] theorem txDataBit_byte (o : BitOrder) (t : TxGroup) : (txDataBit o t).byte = t.byte := rfl
@[simp] theorem txDataBit_bitIdx (o : BitOrder) (t : TxGroup) : (txDataBit o t).bitIdx = t.bitIdx + 1 := rfl
@[simp] theorem txDataBit_nostuff (o : BitOrder) (t : TxGroup) : (txDataBit o t).nostuff = t.nostuff := rfl
@[simp] theorem txDataBit_curBit (o : BitOrder) (t : TxGroup) :
    (txDataBit o t).curBit = bitOf o t.byte t.bitIdx := rfl
@[simp] theorem txDataBit_flagCtr (o : BitOrder) (t : TxGroup) : (txDataBit o t).flagCtr = t.flagCtr := rfl
@[simp] theorem txDataBit_sending (o : BitOrder) (t : TxGroup) : (txDataBit o t).sending = t.sending := rfl

end Sys2Proof.Machine
end

