-- ==== Sys2Proof/Laws/Timing.lean ====
section
/-! SUPPORT. The bit clock: what one `ClockStep` can do, and what it leaves alone. -/

namespace Sys2Proof.Machine

/-- A nudge moves the phase by at most one sample, and never past the lock point (R158). -/
theorem nudgePhase_cases (p : Nat) :
    (p < 4 ∧ nudgePhase p = p + 1) ∨ (p = 4 ∧ nudgePhase p = 4) ∨ (4 < p ∧ nudgePhase p = p - 1) := by
  unfold nudgePhase lockPoint nudge
  split
  · omega
  · split <;> omega

/-- `ClockStep` either decides a bit and restarts both counts, or ticks both (R156). -/
theorem clockStep_cases (pol : Bool) (g : RxGroup) :
    (8 ≤ nudgedPhase pol g + 1 ∧
      clockStep pol g =
        (true, { g with lastPol := pol, phase := BitVec.ofNat 4 (nudgedPhase pol g + 1 - 8), rawCnt := 0 })) ∨
    (nudgedPhase pol g + 1 < 8 ∧
      clockStep pol g =
        (false, { g with lastPol := pol, phase := BitVec.ofNat 4 (nudgedPhase pol g + 1), rawCnt := g.rawCnt + 1 })) := by
  rcases Nat.lt_or_ge (nudgedPhase pol g + 1) 8 with h | h
  · exact .inr ⟨h, if_neg (Nat.not_le.2 h)⟩
  · exact .inl ⟨h, if_pos h⟩

/-- The part of the receive group the bit clock neither reads nor writes (R164). -/
def RxGroup.framerPart (g : RxGroup) : DelayLine × (S16 × S16 × S16 × S16) × Byte × Bool × BitVec 3 × BitVec 3 :=
  (g.delay, (g.x1, g.x2, g.y1, g.y2), g.shift, g.sync, g.ones, g.bitCnt)

theorem clockStep_framerPart (pol : Bool) (g : RxGroup) : (clockStep pol g).2.framerPart = g.framerPart := by
  rcases clockStep_cases pol g with ⟨_, h⟩ | ⟨_, h⟩ <;> rw [h] <;> rfl

/-- The polarity is remembered on every call (R157). -/
theorem clockStep_lastPol (pol : Bool) (g : RxGroup) : (clockStep pol g).2.lastPol = pol := by
  rcases clockStep_cases pol g with ⟨_, h⟩ | ⟨_, h⟩ <;> rw [h]

end Sys2Proof.Machine
end

