-- ==== Sys2Proof/Laws/Demodulator.lean ====
section
/-! SUPPORT. The receive side of one `RXS`: the signal path, then the bit clock, then at most one decided bit. -/

namespace Sys2Proof.Machine

/-- What `RXS` can do: tick the clock, or tick it and hand one bit to the framer (R140). -/
theorem rxSideStep_cases (p : Params) (s : Sample) (r : RxSide) :
    ((clockStep (polarity (newY r.rx s)) (filterStep r.rx s)).1 = false ∧
      rxSideStep p s r = { r with rx := (clockStep (polarity (newY r.rx s)) (filterStep r.rx s)).2 }) ∨
    ((clockStep (polarity (newY r.rx s)) (filterStep r.rx s)).1 = true ∧
      rxSideStep p s r =
        hdlcRxBit p (!polarity (newY r.rx s))
          { r with rx := (clockStep (polarity (newY r.rx s)) (filterStep r.rx s)).2 }) := by
  cases h : (clockStep (polarity (newY r.rx s)) (filterStep r.rx s)).1
  · exact .inl ⟨rfl, by simp [rxSideStep, h]⟩
  · exact .inr ⟨rfl, by simp [rxSideStep, h, recoveredBit]⟩

/-- The delay line and the filter cells after `RXS`, whatever the clock and the framer do (R140 step 4). -/
theorem rxSideStep_signal (p : Params) (s : Sample) (r : RxSide) :
    (rxSideStep p s r).rx.delay = r.rx.delay.push s ∧
    (rxSideStep p s r).rx.x1 = wrapU 16 (newX r.rx s) ∧ (rxSideStep p s r).rx.x2 = r.rx.x1 ∧
    (rxSideStep p s r).rx.y1 = wrapU 16 (newY r.rx s) ∧ (rxSideStep p s r).rx.y2 = r.rx.y1 := by
  have hc := clockStep_framerPart (polarity (newY r.rx s)) (filterStep r.rx s)
  simp only [RxGroup.framerPart, Prod.mk.injEq] at hc
  obtain ⟨hd, ⟨hx1, hx2, hy1, hy2⟩, -⟩ := hc
  rcases rxSideStep_cases p s r with ⟨_, h⟩ | ⟨_, h⟩ <;> rw [h]
  · exact ⟨hd, hx1, hx2, hy1, hy2⟩
  · have hf := hdlcRxBit_signalPart p (!polarity (newY r.rx s))
      { r with rx := (clockStep (polarity (newY r.rx s)) (filterStep r.rx s)).2 }
    simp only [RxGroup.signalPart, Prod.mk.injEq] at hf
    obtain ⟨gd, ⟨gx1, gx2, gy1, gy2⟩, -⟩ := hf
    exact ⟨gd.trans hd, gx1.trans hx1, gx2.trans hx2, gy1.trans hy1, gy2.trans hy2⟩

/-- `RXS` pushes at most one byte, within the capacity, and touches `STATUS` only by setting `OVR` (R68, R112). -/
theorem rxSideStep_queueStep (p : Params) (s : Sample) (r : RxSide) :
    QueueStep p.rxqCap r (rxSideStep p s r) := by
  rcases rxSideStep_cases p s r with ⟨_, h⟩ | ⟨_, h⟩ <;> rw [h]
  · exact .inl ⟨rfl, rfl⟩
  · exact hdlcRxBit_queueStep p _ { r with rx := _ }

end Sys2Proof.Machine
end

