-- ==== Sys2Proof/Laws/Modulator.lean ====
section
/-! SUPPORT. The bit serializer and the NCO: what a bit step can do, said once, and what it leaves alone. -/

namespace Sys2Proof.Machine

/-- The end of the tail: one more flag, or idle (R127, R128). -/
theorem tailBoundary_cases (d : TxSide) :
    (d.tx.flagCtr ≠ 0#14 ∧ tailBoundary d = .loaded { d with tx := loadFlag d.tx }) ∨
    (d.tx.flagCtr = 0#14 ∧ tailBoundary d = .wentIdle { d with tx := goIdle d.tx }) := by
  by_cases h : d.tx.flagCtr = 0#14 <;> simp [tailBoundary, h]

/-- A data byte boundary: the oldest queue byte, a first tail flag, or idle at once (R125, R126). -/
theorem dataBoundary_cases (c : TxConfig) (d : TxSide) :
    (∃ b rest, d.txq = b :: rest ∧ dataBoundary c d = .loaded ⟨loadQueueByte b d.tx, rest⟩) ∨
    (d.txq = [] ∧ nFlags c.tail ≠ 0#14 ∧
      dataBoundary c d = .loaded ⟨loadFlag { d.tx with state := .tail, flagCtr := nFlags c.tail }, []⟩) ∨
    (d.txq = [] ∧ nFlags c.tail = 0#14 ∧
      dataBoundary c d = .wentIdle ⟨goIdle { d.tx with state := .tail, flagCtr := nFlags c.tail }, []⟩) := by
  obtain ⟨tx, q⟩ := d
  cases q with
  | cons b rest => exact .inl ⟨b, rest, rfl, rfl⟩
  | nil =>
    rcases tailBoundary_cases ⟨{ tx with state := .tail, flagCtr := nFlags c.tail }, []⟩ with ⟨hn, h⟩ | ⟨hn, h⟩
    · exact .inr (.inl ⟨rfl, hn, h⟩)
    · exact .inr (.inr ⟨rfl, hn, h⟩)

/-- What a bit step outside idle can be: a stuff bit; the next bit of the current byte; or, at a byte boundary, the first
bit of what was loaded, or the return to idle (R123). -/
theorem nextBitActive_cases (c : TxConfig) (d : TxSide) :
    (d.tx.nostuff = false ∧ d.tx.ones = 5#3 ∧
      nextBitActive c d = { d with tx := { d.tx with curBit := false, ones := 0#3 } }) ∨
    (¬ (d.tx.nostuff = false ∧ d.tx.ones = 5#3) ∧ d.tx.bitIdx ≠ 0#3 ∧
      nextBitActive c d = { d with tx := txDataBit c.bitOrder d.tx }) ∨
    (¬ (d.tx.nostuff = false ∧ d.tx.ones = 5#3) ∧ d.tx.bitIdx = 0#3 ∧
      ((∃ d', byteBoundary c d = .loaded d' ∧ nextBitActive c d = { d' with tx := txDataBit c.bitOrder d'.tx }) ∨
       (∃ d', byteBoundary c d = .wentIdle d' ∧ nextBitActive c d = d'))) := by
  rcases txStuffCheck_cases d.tx with ⟨hn, h5, h⟩ | ⟨hno, h⟩
  · exact .inl ⟨hn, h5, by simp [nextBitActive, h]⟩
  · by_cases hi : d.tx.bitIdx = 0#3
    · refine .inr (.inr ⟨hno, hi, ?_⟩)
      cases hb : byteBoundary c d with
      | loaded d' => exact .inl ⟨d', rfl, by simp [nextBitActive, h, hi, hb]⟩
      | wentIdle d' => exact .inr ⟨d', rfl, by simp [nextBitActive, h, hi, hb]⟩
    · exact .inr (.inl ⟨hno, hi, by simp [nextBitActive, h, hi]⟩)

/-- The three ways into a bit step: idle with nothing to send, the start of a transmission, or going on with one
(R122, R123). -/
theorem txNextBit_cases (c : TxConfig) (d : TxSide) :
    (d.tx.state = .idle ∧ d.txq = [] ∧ txNextBit c d = { d with tx := { d.tx with curBit := true } }) ∨
    (d.tx.state = .idle ∧ d.txq ≠ [] ∧
      txNextBit c d = nextBitActive c { d with tx := startTransmission c d.tx }) ∨
    (d.tx.state ≠ .idle ∧ txNextBit c d = nextBitActive c d) := by
  by_cases hs : d.tx.state = .idle
  · cases hq : d.txq with
    | nil => exact .inl ⟨hs, rfl, by simp [txNextBit, hs, hq, qEmpty]⟩
    | cons b q => exact .inr (.inl ⟨hs, by simp, by simp [txNextBit, hs, hq, qEmpty]⟩)
  · exact .inr (.inr ⟨hs, by simp [txNextBit, hs]⟩)

/-! A bit step moves neither the phase nor the sample counter, and pops at most one byte -/

/-- What a bit step leaves alone, and the one byte it may take from the front of the queue (R54, R68). -/
def BitStepFrame (d d' : TxSide) : Prop :=
  d'.tx.phase = d.tx.phase ∧ d'.tx.sampleCtr = d.tx.sampleCtr ∧ (d'.txq = d.txq ∨ ∃ b, d.txq = b :: d'.txq)

theorem dataBoundary_frame (c : TxConfig) (d d' : TxSide)
    (h : dataBoundary c d = .loaded d' ∨ dataBoundary c d = .wentIdle d') : BitStepFrame d d' := by
  rcases dataBoundary_cases c d with ⟨b, rest, hq, he⟩ | ⟨hq, _, he⟩ | ⟨hq, _, he⟩ <;> rw [he] at h <;>
    rcases h with h | h <;> cases h
  · exact ⟨rfl, rfl, .inr ⟨b, hq⟩⟩
  · exact ⟨rfl, rfl, .inl hq.symm⟩
  · exact ⟨rfl, rfl, .inl hq.symm⟩

theorem tailBoundary_frame (d d' : TxSide) (h : tailBoundary d = .loaded d' ∨ tailBoundary d = .wentIdle d') :
    BitStepFrame d d' := by
  rcases tailBoundary_cases d with ⟨_, he⟩ | ⟨_, he⟩ <;> rw [he] at h <;> rcases h with h | h <;> cases h <;>
    exact ⟨rfl, rfl, .inl rfl⟩

theorem byteBoundary_frame (c : TxConfig) (d d' : TxSide)
    (h : byteBoundary c d = .loaded d' ∨ byteBoundary c d = .wentIdle d') : BitStepFrame d d' := by
  cases hs : d.tx.state with
  | idle =>
    have he : byteBoundary c d = .loaded d := by simp [byteBoundary, hs]
    rw [he] at h
    rcases h with h | h <;> cases h
    exact ⟨rfl, rfl, .inl rfl⟩
  | data =>
    have he : byteBoundary c d = dataBoundary c d := by simp [byteBoundary, hs]
    rw [he] at h
    exact dataBoundary_frame c d d' h
  | tail =>
    have he : byteBoundary c d = tailBoundary d := by simp [byteBoundary, hs]
    rw [he] at h
    exact tailBoundary_frame d d' h
  | preamble =>
    by_cases hc : d.tx.flagCtr = 0#14
    · have he : byteBoundary c d = dataBoundary c { d with tx := { d.tx with state := .data } } := by
        simp [byteBoundary, hs, hc]
      rw [he] at h
      exact dataBoundary_frame c { d with tx := { d.tx with state := .data } } d' h
    · have he : byteBoundary c d = .loaded { d with tx := loadFlag d.tx } := by simp [byteBoundary, hs, hc]
      rw [he] at h
      rcases h with h | h <;> cases h
      exact ⟨rfl, rfl, .inl rfl⟩

theorem nextBitActive_frame (c : TxConfig) (d : TxSide) : BitStepFrame d (nextBitActive c d) := by
  rcases nextBitActive_cases c d with ⟨_, _, h⟩ | ⟨_, _, h⟩ | ⟨_, _, ⟨d', hb, h⟩ | ⟨d', hb, h⟩⟩ <;> rw [h]
  · exact ⟨rfl, rfl, .inl rfl⟩
  · exact ⟨rfl, rfl, .inl rfl⟩
  · exact byteBoundary_frame c d d' (.inl hb)
  · exact byteBoundary_frame c d d' (.inr hb)

theorem txNextBit_frame (c : TxConfig) (d : TxSide) : BitStepFrame d (txNextBit c d) := by
  rcases txNextBit_cases c d with ⟨_, _, h⟩ | ⟨_, _, h⟩ | ⟨_, h⟩ <;> rw [h]
  · exact ⟨rfl, rfl, .inl rfl⟩
  · exact nextBitActive_frame c { d with tx := startTransmission c d.tx }
  · exact nextBitActive_frame c d

/-! The NCO -/

@[simp] theorem phaseInc_true : phaseInc true = 8192#16 := rfl
@[simp] theorem phaseInc_false : phaseInc false = 15019#16 := rfl

/-- The ROM index is the phase's top byte (R62). -/
theorem romIndex_toNat (p : BitVec 16) : (romIndex p).toNat = (p >>> 8).toNat := by
  simp [romIndex, BitVec.extractLsb'_toNat, Nat.shiftRight_eq_div_pow]
  have := p.isLt
  omega

end Sys2Proof.Machine
end

