-- ==== Sys2Proof/Laws/Exec.lean ====
section
/-! SUPPORT. One inversion lemma per meaning: when it answers a next state, and which. -/

namespace Sys2Proof.Machine

theorem execInit_next (s t : State) :
    execInit s = .next t ↔
      t = { s with
        initialised := true, result := none, tx := TxGroup.reset, rx := RxGroup.reset, status := 0x00,
        cfgPreamble := s.straps.preambleBits, cfgTail := s.straps.tailBits, cfgChannel := s.straps.channel,
        txq := [], rxq := [] } := by
  simp only [execInit, Host.Outcome.next.injEq]
  exact eq_comm

theorem execRxs_next (x : Sample) (s t : State) :
    execRxs x s = .next t ↔
      s.initialised = true ∧ { s.withRxSide (rxSideStep s.params x s.rxSide) with result := none } = t :=
  whenInitialised_next_iff ..

theorem execTxs_next (s t : State) :
    execTxs s = .next t ↔
      s.initialised = true ∧
        { s.withTxSide (txSideStep s.txConfig s.txSide).1 with
          result := some (.sample (txSideStep s.txConfig s.txSide).2) } = t :=
  whenInitialised_next_iff ..

theorem execStrd_next (s t : State) :
    execStrd s = .next t ↔ s.initialised = true ∧ { s with result := some (.status s.status) } = t :=
  whenInitialised_next_iff ..

theorem execStcl_next (s t : State) :
    execStcl s = .next t ↔ s.initialised = true ∧ { s with status := clearStatus, result := none } = t :=
  whenInitialised_next_iff ..

theorem execSndrd_next (s t : State) :
    execSndrd s = .next t ↔ s.initialised = true ∧ { s with result := some (.sending s.tx.sending) } = t :=
  whenInitialised_next_iff ..

theorem execTxw_next (b : Byte) (s t : State) :
    execTxw b s = .next t ↔
      s.initialised = true ∧
        { s with
          txq := (qPush s.params.txqCap s.txq b).2
          result := some (.accepted (qPush s.params.txqCap s.txq b).1) } = t :=
  whenInitialised_next_iff ..

theorem execRxr_next (s t : State) :
    execRxr s = .next t ↔
      s.initialised = true ∧
        ((∃ b rest, s.rxq = b :: rest ∧ { s with rxq := rest, result := some (.received true b) } = t) ∨
         (s.rxq = [] ∧ { s with result := some (.received false 0x00) } = t)) := by
  unfold execRxr
  cases h : s.rxq with
  | nil => simp [whenInitialised_next_iff]
  | cons b rest => simp [whenInitialised_next_iff]

/-- The `TXS` of a state, its transmit side spelled out: the bit step if one is due, then the NCO and the sample counter
(R120). -/
theorem txSideStep_eq (c : TxConfig) (d : TxSide) :
    txSideStep c d =
      (let d' := if d.tx.sampleCtr = 0#3 then txNextBit c d else d
       ({ d' with tx := stepSampleCtr (ncoStep d'.tx).1 }, (ncoStep d'.tx).2)) := rfl

end Sys2Proof.Machine
end

