-- ==== Sys2Proof/Laws/PerInstr.lean ====
section
/-! SUPPORT. Families of statements about every operation as syntax, one lemma per constructor of `Instr`. -/

namespace Sys2Proof.Laws

/-- Every 8-bit operand, widened to the operand field, has its must-be-zero bits clear. -/
theorem widened_high_clear (x : BitVec 8) : (x.setWidth 16 : BitVec 16).extractLsb' 8 8 = 0 := by
  apply BitVec.eq_of_getLsbD_eq
  intro i hi
  simp

/-- An encoded operation as a number: the operation code above the 16-bit operand (R80). -/
theorem encode_toNat (i : Instr) : (encode i).toNat = (opCode i).toNat * 65536 + (operandBits i).toNat := by
  have h2 := (operandBits i).isLt
  have h : (encode i).toNat = (opCode i).toNat <<< 16 ||| (operandBits i).toNat :=
    BitVec.toNat_append (opCode i) (operandBits i)
  rw [h, ← Nat.shiftLeft_add_eq_or_of_lt h2, Nat.shiftLeft_eq]

namespace EncodedWordIsLegal

/-- The word `encode` gives an operation has the operation code R81 gives its mnemonic and is not reserved (R90, R91). -/
def Statement (i : Instr) : Prop :=
  legalWord (encode i) = true ∧ opField (encode i) = opCode i ∧ operandField (encode i) = operandBits i

theorem opField_encode (i : Instr) : opField (encode i) = opCode i := by
  apply BitVec.eq_of_toNat_eq
  have h2 := (operandBits i).isLt
  have h1 := (opCode i).isLt
  simp only [opField, BitVec.extractLsb'_toNat, encode_toNat, Nat.shiftRight_eq_div_pow]
  omega

theorem operandField_encode (i : Instr) : operandField (encode i) = operandBits i := by
  apply BitVec.eq_of_toNat_eq
  have h2 := (operandBits i).isLt
  simp only [operandField, BitVec.extractLsb'_toNat, encode_toNat, Nat.shiftRight_zero]
  omega

/-- The two fields decide, so each operation needs only its own format checked. -/
theorem of_format (i : Instr) (f : Format) (hf : formatOf (opCode i) = some f)
    (hz : mustBeZeroClear f (operandBits i) = true) : Statement i := by
  refine ⟨?_, opField_encode i, operandField_encode i⟩
  simp [legalWord, opField_encode, operandField_encode, hf, hz]

theorem init : Statement .init := of_format .init .n rfl rfl
theorem rxs (s : Sample) : Statement (.rxs s) :=
  of_format (.rxs s) .s rfl (by simp [mustBeZeroClear, operandBits, widened_high_clear])
theorem txs : Statement .txs := of_format .txs .n rfl rfl
theorem strd : Statement .strd := of_format .strd .n rfl rfl
theorem stcl : Statement .stcl := of_format .stcl .n rfl rfl
theorem sndrd : Statement .sndrd := of_format .sndrd .n rfl rfl
theorem txw (b : Byte) : Statement (.txw b) :=
  of_format (.txw b) .b rfl (by simp [mustBeZeroClear, operandBits, widened_high_clear])
theorem rxr : Statement .rxr := of_format .rxr .n rfl rfl

end EncodedWordIsLegal

end Sys2Proof.Laws
end

