-- ==== Sys2Proof/Tests/Slice0.lean ====
section
/-! SUPPORT. The model's own tests. Expected values come from spec/ (the rule or vector is named at each test); a
`witness_` theorem shows concrete inputs that meet all the hypotheses of the statement it is named after, one for each
clause at a boundary of its range. -/

namespace Sys2Proof.Tests

open Sys2Proof.Machine Sys2Proof.Safety

/-- The next state of an outcome, if there is one: outcomes as such cannot be compared by `decide`. -/
def nextOf {α : Type} (o : Host.Outcome α Fault Refusal) : Option α :=
  match o with
  | .next t => some t
  | .fault _ => none
  | .refused _ => none

/-- The refusal of an outcome, if it is one. -/
def refusalOf {α : Type} (o : Host.Outcome α Fault Refusal) : Option Refusal :=
  match o with
  | .next _ => none
  | .fault _ => none
  | .refused r => some r

/-- A register, or any function of the state, after one operation. -/
def after {α : Type} (i : Instr) (s : State) (f : State → α) : Option α := (nextOf (exec i s)).map f

/-! ## WellFormed: the terms each check refuses (R90, R64, R68) -/

theorem test_legal_reserved_op : legalWord 0x80000 = false ∧ legalWord 0xFFFFF = false := by decide
theorem test_legal_format_n : legalWord 0x20001 = false ∧ legalWord 0x38000 = false := by decide
theorem test_legal_format_s : legalWord 0x10100 = false ∧ legalWord 0x1FF80 = false := by decide
theorem test_legal_format_b : legalWord 0x60100 = false ∧ legalWord 0x68041 = false := by decide
theorem test_legal_accepts : legalWord 0x100FF = true ∧ legalWord 0x600FF = true ∧ legalWord 0x70000 = true := by
  decide
theorem test_table_row_selects : (⟨"TXS", 0x20000, 0xFFFFF⟩ : TableRow).selects 0x20001 = false := by decide
theorem test_params_txq_cap : (⟨.lsbFirst, 0, 1⟩ : Params).wellFormed = false := by decide
theorem test_params_rxq_cap : (⟨.msbFirst, 1, 0⟩ : Params).wellFormed = false := by decide
theorem test_params_accepts : (⟨.msbFirst, 1, 1⟩ : Params).wellFormed = true := by decide

/-! ## Decode: words written out from R80 to R86, op in bits 19:16 -/

theorem test_decode_init : decode (0b0000#4 ++ 0b0000000000000000#16) = .ok .init := by decide
theorem test_decode_rxs : decode (0b0001#4 ++ 0b0000000010110100#16) = .ok (.rxs 0b10110100) ∧
    sampleValue 0b10110100 = -76 := by decide
theorem test_decode_txs : decode (0b0010#4 ++ 0b0000000000000000#16) = .ok .txs := by decide
theorem test_decode_strd : decode (0b0011#4 ++ 0b0000000000000000#16) = .ok .strd := by decide
theorem test_decode_stcl : decode (0b0100#4 ++ 0b0000000000000000#16) = .ok .stcl := by decide
theorem test_decode_sndrd : decode (0b0101#4 ++ 0b0000000000000000#16) = .ok .sndrd := by decide
theorem test_decode_txw : decode (0b0110#4 ++ 0b0000000001000001#16) = .ok (.txw 0x41) := by decide
theorem test_decode_rxr : decode (0b0111#4 ++ 0b0000000000000000#16) = .ok .rxr := by decide
/-- Reserved words, among them those of spec/95_test_vectors.md 3.1. -/
theorem test_decode_reserved :
    decode 0x00001 = .error .mustBeZero ∧ decode 0x10100 = .error .mustBeZero ∧
    decode 0x1FF80 = .error .mustBeZero ∧ decode 0x60100 = .error .mustBeZero ∧
    decode 0x80000 = .error .reservedOp ∧ decode 0xFFFFF = .error .reservedOp := by decide
theorem test_encode_operands : encode (.rxs (-128)) = 0x10080 ∧ encode (.txw 0x7E) = 0x6007E := by decide
theorem test_decode_table_word : decodeTableWord 20 0x6007E = some (.txw 0x7E) ∧
    decodeTableWord 24 0x10007F = none ∧ decodeTableWord 24 0x01007F = some (.rxs 127) := by decide

/-! ## One operation -/

/-- The serializer in the middle of a transmission: 0xFF, five ones sent, the sixth bit next. -/
def busyTx : TxGroup :=
  { phase := 0xE000, state := .data, sampleCtr := 0, byte := 0xFF, bitIdx := 5, ones := 5, nostuff := false,
    curBit := true, flagCtr := 0, sending := true }

/-- The receiver about to complete the byte 0x03 with the bit clock about to decide (R110, R111). -/
def busyRx : RxGroup :=
  { RxGroup.reset with phase := 7, rawCnt := 7, shift := 0x06, sync := true, ones := 0, bitCnt := 7,
                       y1 := 100, lastPol := true, delay := ⟨0, 0, 0, 127⟩ }

/-- Capacities of two bytes, a transmission and a reception under way, `OVR` set. -/
def busy : State :=
  { State.reset with params := ⟨.lsbFirst, 2, 2⟩, tx := busyTx, rx := busyRx, status := 0x01, txq := [0x41],
                     rxq := [0x03, 0xF0], straps := ⟨9, 0, 3⟩ }

/-- An instance that has never executed `INIT`. -/
def fresh : State := { State.reset with initialised := false }

/-- R170: straps 9, 0, 3 latched, everything discarded. -/
theorem test_init_discards : after .init busy (fun t => (t.cfgPreamble, t.cfgTail, t.cfgChannel)) = some (9, 0, 3) ∧
    after .init busy (fun t => (t.status, t.txq, t.rxq, t.tx.sending)) = some (0, [], [], false) := by decide
/-- R140's worked example: the first `RXS` after `INIT`, operand 100. -/
theorem test_rxs_first : after (.rxs 100) State.reset (fun t => (t.rx.delay, t.rx.y1, t.rx.phase, t.rx.rawCnt)) =
    some (⟨100, 0, 0, 0⟩, 0, 1, 1) := by decide
/-- R143's worked example: discriminator 156, filter cells -313, 0, -313, 0. -/
theorem test_rxs_filter : after (.rxs 50)
    { State.reset with rx := { RxGroup.reset with delay := ⟨0, 0, 0, 50⟩, x1 := -313, y1 := -313 } }
    (fun t => (t.rx.x1.toInt, t.rx.y1.toInt)) = some (156, -764) := by decide
/-- R120's worked example. -/
theorem test_txs_first_idle : after .txs State.reset (fun t => (t.tx.phase, t.tx.sampleCtr, t.result)) =
    some (0x2000, 0, some (.sample 218)) := by decide
/-- R101 and the wrap of R130: from phase 0xE000 the stuff bit, a space sample: 0xE000 + 15019 wraps to 0x1AAB and the
table has 204 at 0x1A. -/
theorem test_txs_stuff_bit :
    after .txs busy (fun t => (t.tx.curBit, t.tx.ones, t.tx.bitIdx, t.txq)) = some (false, 0, 5, [0x41]) ∧
    after .txs busy (fun t => (t.tx.phase, t.result)) = some (0x1AAB, some (.sample 204)) := by decide
/-- R171's worked example: the word is returned and stays. -/
theorem test_strd : after .strd busy (fun t => (t.result, t.status)) = some (some (.status 0x01), 0x01) := by decide
/-- R172's worked example; the queue that overran stays as it is. -/
theorem test_stcl : after .stcl busy (fun t => (t.status, t.rxq, t.result)) = some (0x00, [0x03, 0xF0], none) := by
  decide
/-- R173's worked example: a `TXW` does not raise `sending`. -/
theorem test_sndrd_after_txw : after .sndrd { State.reset with txq := [0x41] } (fun t => t.result) =
    some (some (.sending false)) := by decide
theorem test_sndrd_busy : after .sndrd busy (fun t => t.result) = some (some (.sending true)) := by decide
/-- R174's worked example: `TXQ_CAP` = 2. -/
theorem test_txw_room : after (.txw 2) { busy with txq := [1] } (fun t => (t.result, t.txq)) =
    some (some (.accepted true), [1, 2]) := by decide
theorem test_txw_full : after (.txw 3) { busy with txq := [1, 2] } (fun t => (t.result, t.txq)) =
    some (some (.accepted false), [1, 2]) := by decide
/-- R175's worked example. -/
theorem test_rxr_oldest : after .rxr busy (fun t => (t.result, t.rxq)) =
    some (some (.received true 0x03), [0xF0]) := by decide
theorem test_rxr_empty : after .rxr State.reset (fun t => (t.result, t.rxq)) =
    some (some (.received false 0x00), []) := by decide

/-! ## Refusals (R186, R206) and steps -/

theorem test_refused_before_init : refusalOf (exec .txs fresh) = some .notInitialised ∧
    refusalOf (exec (.rxs 1) fresh) = some .notInitialised ∧ refusalOf (exec .rxr fresh) = some .notInitialised := by
  decide
/-- R186: a reserved word on an instance never initialised is refused as reserved. -/
theorem test_refused_reserved_first : refusalOf (step (fresh.issue 0x00001)) = some .reservedEncoding := by decide
theorem test_step_runs_next : nextOf (step ((State.reset.issue 0x60041).issue 0x20000)) =
    some { State.reset with txq := [0x41], result := some (.accepted true), pending := [0x20000] } := by decide

/-! ## Parts of the operations, on the spec's examples -/

/-- R121. -/
theorem test_nflags : nFlags 8 = 1 ∧ nFlags 9 = 2 ∧ nFlags 65535 = 8192 := by decide
/-- R142's worked example and the floor. -/
theorem test_discriminate : discriminate (-50) 100 = -313 ∧ discriminate 1 (-1) = -1 := by decide
/-- R108's example: from reset, a flag. -/
theorem test_hdlc_flag : (fun order =>
      let r := feed ⟨order, 64, 64⟩ flagBits ⟨RxGroup.reset, 0, []⟩
      (r.rx.sync, r.rx.bitCnt, r.rx.ones, r.rx.shift)) .lsbFirst = (true, 0, 0, 0xFC) ∧
    (feed ⟨.msbFirst, 64, 64⟩ flagBits ⟨RxGroup.reset, 0, []⟩).rx.shift = 0x3F := by decide
/-- R111's and R109's examples: after a flag `11000000` is 0x03 or 0xC0, and `11111 0 111` is 0xFF. -/
theorem test_hdlc_bytes :
    (feed ⟨.lsbFirst, 64, 64⟩ (flagBits ++ [true, true, false, false, false, false, false, false])
      ⟨RxGroup.reset, 0, []⟩).rxq = [0x03] ∧
    (feed ⟨.msbFirst, 64, 64⟩ (flagBits ++ [true, true, false, false, false, false, false, false])
      ⟨RxGroup.reset, 0, []⟩).rxq = [0xC0] ∧
    (feed ⟨.msbFirst, 64, 64⟩ (flagBits ++ [true, true, true, true, true, false, true, true, true])
      ⟨RxGroup.reset, 0, []⟩).rxq = [0xFF] := by decide
/-- R107's example: the abort. -/
theorem test_hdlc_abort :
    (fun r : RxSide => (r.rx.sync, r.rx.bitCnt, r.rxq)) (feed ⟨.lsbFirst, 64, 64⟩
      (flagBits ++ [false, true, true, true, true, true, true, true]) ⟨RxGroup.reset, 0, []⟩) = (false, 0, []) := by
  decide
/-- R101's example: 0xFF sent alone; spec/95_test_vectors.md section 2: the two bytes of the concrete scenario, most
significant bit first. -/
theorem test_wire :
    wireBody .lsbFirst 0 [0xFF] = [true, true, true, true, true, false, true, true, true] ∧
    wireBody .msbFirst 0 [0x03, 0xF0] =
      [false, false, false, false, false, false, true, true, true, true, true, false, true, false, false, false,
       false] := by decide
/-- The wire of 0xFF, sent by the transmitter itself, without preamble or tail. -/
theorem test_bit_steps :
    (bitSteps ⟨.lsbFirst, 0, 0⟩ 10 ⟨TxGroup.reset, [0xFF]⟩).1 =
      [true, true, true, true, true, false, true, true, true, true] := by decide
/-- R165: a retard from phase 7, and the decision with a nudge already spent. -/
theorem test_clock_step :
    (fun c : Bool × RxGroup => (c.1, c.2.phase, c.2.rawCnt))
      (clockStep true { RxGroup.reset with phase := 7, rawCnt := 7 }) = (false, 7, 8) ∧
    (fun c : Bool × RxGroup => (c.1, c.2.phase, c.2.rawCnt))
      (clockStep true { RxGroup.reset with phase := 7, rawCnt := 6 }) = (true, 0, 0) := by decide

/-! ## Witnesses: inputs that meet the hypotheses of the statements -/

/-- Serializers at a byte boundary, one for each state outside idle. -/
def boundaryTx (state : TxState) (flagCtr : BitVec 14) : TxGroup :=
  { TxGroup.reset with state := state, sending := true, flagCtr := flagCtr, byte := 0x7E, nostuff := true,
                       curBit := false }

/-- A state after `INIT` with the given preamble and tail lengths, serializer and transmit queue. -/
def txAt (preamble tail : BitVec 16) (t : TxGroup) (q : List Byte) : State :=
  { State.reset with cfgPreamble := preamble, cfgTail := tail, tx := t, txq := q }

/-- A receive side with the given run of ones, hunting or receiving, alignment count and queue. -/
def rxAt (ones : BitVec 3) (sync : Bool) (bitCnt : BitVec 3) (q : List Byte) : RxSide :=
  ⟨{ RxGroup.reset with ones := ones, sync := sync, bitCnt := bitCnt }, 0x00, q⟩

/-- A state whose next `RXS 0` decides a bit: 0 when `y1` is positive, 1 when it is not, after the given run of ones. -/
def deciding (y1 : S16) (ones : BitVec 3) (sync : Bool) (bitCnt : BitVec 3) : State :=
  { State.reset with
    params := ⟨.lsbFirst, 64, 1⟩
    rx := { RxGroup.reset with phase := 7, rawCnt := 7, y1 := y1, lastPol := decide (0 < y1.toInt), ones := ones,
                               sync := sync, bitCnt := bitCnt } }

/-- O2: one word for each reason and a legal one. -/
theorem witness_ReservedWordsAreRefused :
    (∃ rest, (State.reset.issue 0x80000).pending = (0x80000 : OpWord) :: rest) ∧ 8 ≤ opField 0x80000 ∧
    (opField 0x20001 ≠ 1 ∧ opField 0x20001 ≠ 6 ∧ operandField 0x20001 ≠ 0) ∧
    (opField 0x10100 = 1 ∧ operandField 0x10100 >>> 8 ≠ 0) ∧
    (opField 0x60100 = 6 ∧ operandField 0x60100 >>> 8 ≠ 0) ∧
    (opField 0x7FFFF ≠ 1 ∧ ¬ 8 ≤ opField 0x7FFFF ∧ operandField 0x7FFFF ≠ 0) ∧
    refusalOf (step (State.reset.issue 0x70000)) = none :=
  ⟨⟨[], rfl⟩, by decide⟩

theorem witness_TableRowsMatchTheDecoder :
    ∃ row ∈ opcodeTable, row.selects 0x100FF = true ∧ row.mnemonic = "RXS" ∧ decode 0x100FF = .ok (.rxs (-1)) := by
  decide

theorem witness_StepRunsDecodedOperation :
    (busy.issue 0x20000).pending = (0x20000 : OpWord) :: [] ∧ decode 0x20000 = .ok .txs := by decide

theorem witness_NothingIssuedNothingChanges : busy.pending = [] := by decide

theorem witness_PlacedWordRunsNext :
    decodeTableWord 20 0x600FF = some (.txw 0xFF) ∧ decodeTableWord 20 0x600FF ≠ none ∧
    decodeTableWord 20 0x60100 = none ∧ decodeTableWord 21 0x100000 = none ∧
    busy.pending = [] ∧ decode 0x70000 = .ok .rxr := by decide

theorem witness_OnlyInitRunsBeforeInit : fresh.initialised = false ∧ Instr.txs ≠ .init := by decide

theorem witness_EveryLegalWordCompletes :
    (busy.issue 0x100FF).initialised = true ∧ (busy.issue 0x100FF).pending = (0x100FF : OpWord) :: [] ∧
    legalWord 0x100FF = true := by decide

theorem witness_ResetStateIsWhatInitLeaves : ∃ t, exec .init busy = .next t ∧ t ≠ busy := ⟨_, rfl, by decide⟩

/-- O13: once initialised, with the transmitter and the receiver both under way, and before the first `INIT`. -/
theorem witness_StepKeepsTheInvariant :
    (Inv (busy.issue 0x20000) ∧ ∃ t, step (busy.issue 0x20000) = .next t) ∧
    (Inv (busy.issue 0x10000) ∧ ∃ t, step (busy.issue 0x10000) = .next t) ∧
    (Inv (fresh.issue 0x00000) ∧ ∃ t, step (fresh.issue 0x00000) = .next t) :=
  ⟨⟨by decide, _, rfl⟩, ⟨by decide, _, rfl⟩, ⟨by decide, _, rfl⟩⟩

theorem witness_StatusReadReturnsTheWord :
    busy.initialised = true ∧ Inv busy ∧ (∃ t, exec .strd busy = .next t ∧ t.result = some (.status 0x01)) ∧
    Inv State.reset ∧ (∃ t, exec .strd State.reset = .next t ∧ t.result = some (.status 0x00)) :=
  ⟨rfl, by decide, ⟨_, rfl, rfl⟩, by decide, ⟨_, rfl, rfl⟩⟩

theorem witness_StatusClearClearsTheWord : busy.initialised = true ∧ busy.status ≠ 0x00 := by decide

theorem witness_SendingReadReturnsTheLevel :
    busy.initialised = true ∧ (∃ t, exec (.txw 0x41) State.reset = .next t ∧ t.txq = [0x41]) :=
  ⟨rfl, _, rfl, rfl⟩

/-- O17: the queue one byte short of its capacity, and full. -/
theorem witness_TransmitWriteQueuesOrRefusesTheByte :
    busy.initialised = true ∧ busy.txq.length + 1 = busy.params.txqCap ∧
    (busy.params.txqCap = { busy with txq := [1, 2] }.txq.length) := by decide

theorem witness_ReceiveReadTakesTheOldestByte :
    busy.initialised = true ∧ busy.rxq = (0x03 : Byte) :: [0xF0] ∧ State.reset.initialised = true ∧
    State.reset.rxq = [] := by decide

/-- O19, O20: more bytes than there is room for, and more asked than there are. -/
theorem witness_WriteQueuesWhatFits : busy.initialised = true ∧
    (nextOf (writeBytes [1, 2, 3] busy)).map (fun r => (r.1, r.2.txq)) = some (1, [0x41, 1]) := by decide

theorem witness_ReadDrainsTheReceiveQueue : busy.initialised = true ∧
    (nextOf (readBytes 3 busy)).map (fun r => (r.1, r.2.rxq)) = some ([0x03, 0xF0], []) := by decide

theorem witness_QueuesAreFirstInFirstOut :
    qFull 2 [1, 2] = true ∧ qFull 2 [1] = false ∧ qPop [1] = some ((1 : Byte), []) := by decide

theorem witness_PhaseMovesByTheToneOfTheBit :
    busy.initialised = true ∧ (Instr.rxs 100 ≠ .init ∧ Instr.rxs 100 ≠ .txs ∧ ∃ t, exec (.rxs 100) busy = .next t) :=
  ⟨rfl, by decide, by decide, _, rfl⟩

/-- O25: the first and the last sample inside a bit. -/
theorem witness_TxsInsideABit :
    (txAt 16 8 { busyTx with sampleCtr := 1 } []).initialised = true ∧
    (txAt 16 8 { busyTx with sampleCtr := 1 } []).tx.sampleCtr ≠ 0 ∧
    (txAt 16 8 { busyTx with sampleCtr := 7 } []).tx.sampleCtr ≠ 0 := by decide

theorem witness_TxsIdleSendsMark :
    State.reset.initialised = true ∧ State.reset.tx.state = .idle ∧ State.reset.tx.sampleCtr = 0 ∧
    State.reset.txq = [] := by decide

/-- O27: a preamble of one bit, hence one flag, and none. -/
theorem witness_TxsStartsATransmission :
    (let s := txAt 1 0 TxGroup.reset [0x41]
     s.initialised = true ∧ s.tx.state = .idle ∧ s.tx.sampleCtr = 0 ∧ s.txq = (0x41 : Byte) :: [] ∧
      nFlags s.cfgPreamble ≠ 0) ∧
    (let s := txAt 0 0 TxGroup.reset [0x41]
     s.initialised = true ∧ s.tx.state = .idle ∧ s.tx.sampleCtr = 0 ∧ s.txq = (0x41 : Byte) :: [] ∧
      nFlags s.cfgPreamble = 0) := by decide

theorem witness_TxsSendsTheStuffBit :
    busy.initialised = true ∧ busy.tx.state ≠ .idle ∧ busy.tx.sampleCtr = 0 ∧ StuffOwed busy.tx := by decide

/-- O29: the last bit of a byte, after four ones, and a bit of a flag. -/
theorem witness_TxsSendsTheNextBitOfTheByte :
    (let s := txAt 16 8 { busyTx with bitIdx := 7, ones := 4 } []
     s.initialised = true ∧ s.tx.state ≠ .idle ∧ s.tx.sampleCtr = 0 ∧ ¬ StuffOwed s.tx ∧ s.tx.bitIdx ≠ 0) ∧
    (let s := txAt 16 8 { boundaryTx .tail 0 with bitIdx := 1 } []
     s.initialised = true ∧ s.tx.state ≠ .idle ∧ s.tx.sampleCtr = 0 ∧ ¬ StuffOwed s.tx ∧ s.tx.bitIdx ≠ 0 ∧
      s.tx.nostuff = true) := by decide

theorem witness_TxsAtAPreambleByteBoundary :
    (let s := txAt 16 8 (boundaryTx .preamble 1) [0x7E]
     s.initialised = true ∧ s.tx.state = .preamble ∧ s.tx.sampleCtr = 0 ∧ ¬ StuffOwed s.tx ∧ s.tx.bitIdx = 0 ∧
      s.tx.flagCtr ≠ 0) ∧
    (let s := txAt 16 8 (boundaryTx .preamble 0) [0x7E]
     s.initialised = true ∧ s.tx.state = .preamble ∧ s.tx.sampleCtr = 0 ∧ ¬ StuffOwed s.tx ∧ s.tx.bitIdx = 0 ∧
      s.tx.flagCtr = 0 ∧ s.txq = (0x7E : Byte) :: []) := by decide

theorem witness_TxsAtADataByteBoundary :
    (let s := txAt 0 0 (boundaryTx .data 0) [0x41]
     s.initialised = true ∧ s.tx.state = .data ∧ s.tx.sampleCtr = 0 ∧ ¬ StuffOwed s.tx ∧ s.tx.bitIdx = 0 ∧
      s.txq = (0x41 : Byte) :: []) ∧
    (let s := txAt 0 1 (boundaryTx .data 0) []
     s.initialised = true ∧ s.tx.state = .data ∧ s.tx.sampleCtr = 0 ∧ ¬ StuffOwed s.tx ∧ s.tx.bitIdx = 0 ∧
      s.txq = [] ∧ nFlags s.cfgTail ≠ 0) ∧
    (let s := txAt 0 0 (boundaryTx .data 0) []
     s.initialised = true ∧ s.tx.state = .data ∧ s.tx.sampleCtr = 0 ∧ ¬ StuffOwed s.tx ∧ s.tx.bitIdx = 0 ∧
      s.txq = [] ∧ nFlags s.cfgTail = 0) := by decide

theorem witness_TxsAtATailByteBoundary :
    (let s := txAt 0 9 (boundaryTx .tail 1) [0x41]
     s.initialised = true ∧ s.tx.state = .tail ∧ s.tx.sampleCtr = 0 ∧ ¬ StuffOwed s.tx ∧ s.tx.bitIdx = 0 ∧
      s.tx.flagCtr ≠ 0) ∧
    (let s := txAt 0 9 (boundaryTx .tail 0) [0x41]
     s.initialised = true ∧ s.tx.state = .tail ∧ s.tx.sampleCtr = 0 ∧ ¬ StuffOwed s.tx ∧ s.tx.bitIdx = 0 ∧
      s.tx.flagCtr = 0) := by decide

/-- O33: a `TXS` that pops a byte and one that pops none. -/
theorem witness_TxsTouchesOnlyTheTransmitSide :
    (Inv (txAt 0 0 (boundaryTx .data 0) [0x41]) ∧
      ∃ t, exec .txs (txAt 0 0 (boundaryTx .data 0) [0x41]) = .next t ∧ t.txq = []) ∧
    (Inv busy ∧ ∃ t, exec .txs busy = .next t ∧ t.txq = busy.txq) :=
  ⟨⟨by decide, _, rfl, rfl⟩, by decide, _, rfl, rfl⟩

/-- O34: each of the transitions, and each of its two outcomes where there are two. -/
theorem witness_SerializerTransitionsAreTheTables :
    (Inv busy ∧ ∃ t, exec .init busy = .next t ∧ t.tx.state ≠ busy.tx.state) ∧
    (let s := txAt 1 8 TxGroup.reset [0x41]
     Inv s ∧ ∃ t, exec .txs s = .next t ∧ s.tx.state = .idle ∧ t.tx.state = .preamble) ∧
    (let s := txAt 0 8 TxGroup.reset [0x41]
     Inv s ∧ ∃ t, exec .txs s = .next t ∧ s.tx.state = .idle ∧ t.tx.state = .data) ∧
    (let s := txAt 1 8 (boundaryTx .preamble 0) [0x41]
     Inv s ∧ ∃ t, exec .txs s = .next t ∧ s.tx.state = .preamble ∧ t.tx.state = .data) ∧
    (let s := txAt 1 8 (boundaryTx .data 0) []
     Inv s ∧ ∃ t, exec .txs s = .next t ∧ s.tx.state = .data ∧ t.tx.state = .tail) ∧
    (let s := txAt 1 0 (boundaryTx .data 0) []
     Inv s ∧ ∃ t, exec .txs s = .next t ∧ s.tx.state = .data ∧ t.tx.state = .idle) ∧
    (let s := txAt 1 8 (boundaryTx .tail 0) [0x41]
     Inv s ∧ ∃ t, exec .txs s = .next t ∧ s.tx.state = .tail ∧ t.tx.state = .idle) :=
  ⟨⟨by decide, _, rfl, by decide⟩, ⟨by decide, _, rfl, rfl, rfl⟩, ⟨by decide, _, rfl, rfl, rfl⟩,
    ⟨by decide, _, rfl, rfl, rfl⟩, ⟨by decide, _, rfl, rfl, rfl⟩, ⟨by decide, _, rfl, rfl, rfl⟩,
    by decide, _, rfl, rfl, rfl⟩

theorem witness_TransmissionFollowsTheWireFormat :
    (⟨TxGroup.reset, [0x41]⟩ : TxSide).tx.state = .idle ∧ (⟨TxGroup.reset, [0x41]⟩ : TxSide).txq ≠ [] ∧
    1 ≤ (wire ⟨.lsbFirst, 0, 0⟩ [0x41]).length := by decide

theorem witness_TransmissionIsEightSamplesOfEachBit :
    (let s := txAt 0 0 TxGroup.reset [0x41]
     s.initialised = true ∧ s.tx.state = .idle ∧ s.tx.sampleCtr = 0 ∧ s.txq ≠ [] ∧
      1 ≤ 8 * (wire s.txConfig s.txq).length) := by decide

theorem witness_NoAbortWhileSending :
    (let d : TxSide := ⟨TxGroup.reset, [0xFF]⟩
     d.tx.state = .idle ∧ d.txq ≠ [] ∧ (bitSteps ⟨.lsbFirst, 0, 0⟩ 9 d).2.tx.sending = true) := by decide

/-- O38: from reset, and with phase bits below bit 13. -/
theorem witness_IdleToneIsStable :
    (Inv State.reset ∧ State.reset.initialised = true ∧ State.reset.tx.state = .idle ∧ State.reset.txq = [] ∧
      State.reset.tx.phase.extractLsb' 0 13 = 0) ∧
    (let s := txAt 16 8 { TxGroup.reset with phase := 0xFFFF } []
     Inv s ∧ s.initialised = true ∧ s.tx.state = .idle ∧ s.txq = []) :=
  ⟨by decide, by decide⟩

theorem witness_RxsIsFilterThenClockThenFramer : busy.initialised = true := by decide

theorem witness_RxsMovesTheSignalRegisters : busy.initialised = true := by decide

/-- O42: no byte completed, a byte pushed, a byte dropped. -/
theorem witness_RxsTouchesOnlyTheReceiveSide :
    (∃ t, exec (.rxs 1) State.reset = .next t ∧ t.rxq = []) ∧
    (∃ t, exec (.rxs 0) (deciding 100 0 true 7) = .next t ∧ t.rxq = [0x00]) ∧
    (∃ t, exec (.rxs 0) { deciding 100 0 true 7 with rxq := [0x41] } = .next t ∧ t.status = 0x01) :=
  ⟨⟨_, rfl, rfl⟩, ⟨_, rfl, rfl⟩, _, rfl, rfl⟩

/-- O44: the ends of the two ranges, with a nudge and without. -/
theorem witness_ClockStepFollowsItsTable :
    RxGroup.reset.phase ≤ 7 ∧ RxGroup.reset.rawCnt ≤ 8 ∧
    (let g := { RxGroup.reset with phase := 7, rawCnt := 8 }
     g.phase ≤ 7 ∧ g.rawCnt ≤ 8 ∧ ¬ (true ≠ g.lastPol ∧ g.rawCnt = g.phase)) ∧
    (let g := { RxGroup.reset with phase := 7, rawCnt := 7 }
     g.phase ≤ 7 ∧ g.rawCnt ≤ 8 ∧ true ≠ g.lastPol ∧ g.rawCnt = g.phase) := by decide

/-- O45: no decision, and decisions after 8, 7 and 9 calls. -/
theorem witness_BitIntervalsAreSevenEightOrNine :
    (Inv State.reset ∧ ∃ t, exec (.rxs 0) State.reset = .next t ∧ t.rx.rawCnt = 1) ∧
    (let s := deciding 0 0 false 0
     Inv s ∧ ∃ t, exec (.rxs 0) s = .next t ∧ t.rx.rawCnt = 0 ∧ s.rx.rawCnt = 7) ∧
    (let s := { State.reset with rx := { RxGroup.reset with phase := 7, rawCnt := 6 } }
     Inv s ∧ ∃ t, exec (.rxs 0) s = .next t ∧ t.rx.rawCnt = 0) ∧
    (let s := { State.reset with rx := { RxGroup.reset with phase := 7, rawCnt := 8 } }
     Inv s ∧ ∃ t, exec (.rxs 0) s = .next t ∧ t.rx.rawCnt = 0) :=
  ⟨⟨by decide, _, rfl, rfl⟩, ⟨by decide, _, rfl, rfl, rfl⟩, ⟨by decide, _, rfl, rfl⟩, by decide, _, rfl, rfl⟩

/-- O46: the phase 0 and 7 ends, the lock point, one period between transitions. -/
theorem witness_ClockLocksInFourTransitions :
    RxGroup.reset.phase ≤ 7 ∧ RxGroup.reset.rawCnt = RxGroup.reset.phase ∧ RxGroup.reset.phase < 4 ∧ 1 ≤ 1 ∧
    (let g := { RxGroup.reset with phase := 7, rawCnt := 7 }
     g.phase ≤ 7 ∧ g.rawCnt = g.phase ∧ 4 < g.phase) ∧
    (let g := { RxGroup.reset with phase := 4, rawCnt := 4 }
     g.phase ≤ 7 ∧ g.rawCnt = g.phase ∧ g.phase = 4) := by decide

/-- O47: the seventh one and an eighth, the zero after six ones, the zero after five. -/
theorem witness_RunsOfOnesAreAbortFlagOrStuffing :
    6 ≤ (rxAt 6 true 3 []).rx.ones ∧ 6 ≤ (rxAt 7 false 0 []).rx.ones ∧ (rxAt 6 true 7 []).rx.ones = 6 ∧
    (rxAt 5 true 5 []).rx.ones = 5 := by decide

/-- O48: each of the four clauses, for a one after five ones and for the zeros after four and after seven. -/
theorem witness_KeptBitsAssembleBytes :
    (let r := rxAt 5 false 0 []
     r.rx.ones < 6 ∧ r.rx.sync = false) ∧
    (let r := rxAt 7 false 0 []
     r.rx.ones ≠ 5 ∧ r.rx.ones ≠ 6 ∧ r.rx.sync = false) ∧
    (let r := rxAt 4 true 6 []
     r.rx.ones ≠ 5 ∧ r.rx.ones ≠ 6 ∧ r.rx.sync = true ∧ r.rx.bitCnt ≠ 7) ∧
    (let r := rxAt 4 true 7 []
     r.rx.ones < 6 ∧ r.rx.sync = true ∧ r.rx.bitCnt = 7 ∧ r.rxq.length < 1) ∧
    (let r := rxAt 0 true 7 [0x41]
     r.rx.ones ≠ 5 ∧ r.rx.ones ≠ 6 ∧ r.rx.sync = true ∧ r.rx.bitCnt = 7 ∧ 1 ≤ r.rxq.length) := by decide

theorem witness_FlagsAndAbortsAreAlwaysRecognized : 7 ≤ 7 := by decide

/-- O50: a queue that the bytes just fill. -/
theorem witness_StuffingRoundTrip :
    (feed ⟨.lsbFirst, 2, 2⟩ flagBits (rxAt 0 false 0 [])).rxq.length + [(0x7E : Byte), 0xFF].length ≤ 2 := by decide

theorem witness_ReceiverRecoversTheTransmission :
    (let p : Params := ⟨.lsbFirst, 2, 1⟩
     let c : TxConfig := ⟨.lsbFirst, 1, 0⟩
     let d : TxSide := ⟨TxGroup.reset, [0x41, 0x7E]⟩
     let r := rxAt 7 false 0 []
     c.bitOrder = p.bitOrder ∧ d.tx.state = .idle ∧ d.txq ≠ [] ∧ nFlags c.preamble ≠ 0 ∧ r.rx.sync = false ∧
      r.rxq.length + (d.txq.filter (fun b => b ≠ 0x7E)).length ≤ p.rxqCap) := by decide

/-- O53: a flag, an abort, and `INIT` while receiving. -/
theorem witness_SyncTransitionsAreTheTables :
    (let s := deciding 100 6 false 0
     Inv s ∧ ∃ t, exec (.rxs 0) s = .next t ∧ t.rx.sync = true ∧ t.rx.sync ≠ s.rx.sync) ∧
    (let s := deciding 0 6 true 7
     Inv s ∧ ∃ t, exec (.rxs 0) s = .next t ∧ t.rx.sync = false ∧ t.rx.sync ≠ s.rx.sync) ∧
    (Inv busy ∧ ∃ t, exec .init busy = .next t ∧ t.rx.sync ≠ busy.rx.sync) :=
  ⟨⟨by decide, _, rfl, rfl, by decide⟩, ⟨by decide, _, rfl, rfl, by decide⟩, by decide, _, rfl, by decide⟩

/-- O54: the bit set and kept, and the `RXS` that sets it. -/
theorem witness_OverrunIsStickyAndOnlyFromRxs :
    (Inv busy ∧ (∃ t, exec .rxr busy = .next t ∧ t.rxq = [0xF0]) ∧ busy.status.getLsbD 0 = true ∧
      Instr.rxr ≠ .stcl ∧ Instr.rxr ≠ .init) ∧
    (let s := { deciding 100 0 true 7 with rxq := [0x41] }
     Inv s ∧ s.status.getLsbD 0 = false ∧ ∃ t, exec (.rxs 0) s = .next t ∧ t.status.getLsbD 0 = true) :=
  ⟨⟨by decide, ⟨_, rfl, rfl⟩, by decide, by decide, by decide⟩, by decide, by decide, _, rfl, by decide⟩

/-- O55: each kind of state changed. -/
theorem witness_StateIsWrittenOnlyByItsOwner :
    (∃ t, exec .txs busy = .next t ∧ t.tx ≠ busy.tx) ∧
    (∃ t, exec (.rxs 1) busy = .next t ∧ t.rx ≠ busy.rx) ∧
    (∃ t, exec .stcl busy = .next t ∧ t.status ≠ busy.status) ∧
    (∃ t, exec .init busy = .next t ∧ t.cfgPreamble ≠ busy.cfgPreamble) ∧
    (∃ t, exec (.txw 0) busy = .next t ∧ t.txq ≠ busy.txq) ∧
    (∃ t, exec .rxr busy = .next t ∧ t.rxq ≠ busy.rxq) :=
  ⟨⟨_, rfl, by decide⟩, ⟨_, rfl, by decide⟩, ⟨_, rfl, by decide⟩, ⟨_, rfl, by decide⟩, ⟨_, rfl, by decide⟩,
    _, rfl, by decide⟩

theorem witness_OrderInsideAPeriodDoesNotMatter : busy.initialised = true := by decide

/-- O57: two states that differ in all the other path owns. -/
theorem witness_TheTwoPathsAreIndependent :
    (let s' := { busy with tx := TxGroup.reset, txq := [], cfgTail := 0 }
     busy.params = s'.params ∧ busy.rx = s'.rx ∧ busy.status = s'.status ∧ busy.rxq = s'.rxq ∧ busy ≠ s' ∧
      (∃ t, exec (.rxs 1) busy = .next t) ∧ ∃ t', exec (.rxs 1) s' = .next t') ∧
    (let s' := { busy with rx := RxGroup.reset, rxq := [], status := 0, cfgChannel := 9 }
     busy.params.bitOrder = s'.params.bitOrder ∧ busy.cfgPreamble = s'.cfgPreamble ∧ busy.cfgTail = s'.cfgTail ∧
      busy.tx = s'.tx ∧ busy.txq = s'.txq ∧ busy ≠ s' ∧
      (∃ t, exec .txs busy = .next t) ∧ ∃ t', exec .txs s' = .next t') :=
  ⟨⟨rfl, rfl, rfl, rfl, by decide, ⟨_, rfl⟩, _, rfl⟩, rfl, rfl, rfl, rfl, rfl, by decide, ⟨_, rfl⟩, _, rfl⟩

theorem witness_StrapsAreReadOnlyByInit :
    Instr.txs ≠ .init ∧ (∃ t, exec .txs busy = .next t) ∧ ∃ t, exec .init busy = .next t :=
  ⟨by decide, ⟨_, rfl⟩, _, rfl⟩

theorem witness_ContinuousOutputsChangeOnlyInside :
    (let s := txAt 16 8 TxGroup.reset [0x41]
     ∃ t, exec .txs s = .next t ∧ t.txEnable ≠ s.txEnable) ∧
    (∃ t, exec .init busy = .next t ∧ t.adcChannel ≠ busy.adcChannel) :=
  ⟨⟨_, rfl, by decide⟩, _, rfl, by decide⟩

/-- O60: a synchronized receiver one bit short of a byte with a queued leading flag and no preamble, and a hunting one
with a preamble, each with a queue that the bytes just fill. -/
theorem witness_AnyReceiverRecoversAFlaggedTransmission :
    (let p : Params := ⟨.lsbFirst, 2, 2⟩
     let c : TxConfig := ⟨.lsbFirst, 0, 0⟩
     let d : TxSide := ⟨TxGroup.reset, [0x7E, 0x41]⟩
     let r := rxAt 0 true 7 []
     c.bitOrder = p.bitOrder ∧ d.tx.state = .idle ∧ d.txq ≠ [] ∧ d.txq.head? = some 0x7E ∧
      (feed p flagBits r).rxq.length + (d.txq.filter (fun b => b ≠ 0x7E)).length = p.rxqCap) ∧
    (let p : Params := ⟨.msbFirst, 2, 1⟩
     let c : TxConfig := ⟨.msbFirst, 1, 0⟩
     let d : TxSide := ⟨TxGroup.reset, [0x41]⟩
     let r := rxAt 7 false 0 []
     c.bitOrder = p.bitOrder ∧ d.tx.state = .idle ∧ d.txq ≠ [] ∧ nFlags c.preamble ≠ 0 ∧ r.rx.sync = false ∧
      (feed p flagBits r).rxq.length + (d.txq.filter (fun b => b ≠ 0x7E)).length = p.rxqCap) := by decide

end Sys2Proof.Tests
end

section

namespace Sys2Proof.Machine

/-! What a step fetches and what it then runs (R72, log 1). -/

theorem fetchWord_of_pending_cons {s : State} {w : OpWord} {rest : List OpWord} (hp : s.pending = w :: rest) :
    fetchWord s = some (w, { s with pending := rest }) := by
  simp only [fetchWord, hp]

theorem step_of_decode_ok {s s' : State} {w : OpWord} {i : Instr} (hf : fetchWord s = some (w, s'))
    (hd : decode w = .ok i) : step s = exec i s' := by
  simp only [step, hf, hd]

/-- Settles O5: the word fetched is the first pending one, and a word that decodes is executed on what is left. -/
theorem stepRunsDecodedOperation : Obligations.StepRunsDecodedOperation := by
  intro s w rest i hp hd
  exact step_of_decode_ok (fetchWord_of_pending_cons hp) hd

end Sys2Proof.Machine
end

section

namespace Sys2Proof.Machine

open Safety

/-! The bit serializer keeps its invariant (R51, R122 to R128). A bit step that sends no stuff bit goes through two
stages: a bit of `tx_byte` is due (`BitDue`), and the byte it comes from is loaded (`ByteLoaded`). -/

/-- What `TXS` keeps between operations: the transmit group's invariant, and a byte queued through a preamble. -/
def TxSideInv (d : TxSide) : Prop := TxInv d.tx ∧ (d.tx.state = .preamble → d.txq ≠ [])

/-- A bit step outside idle in which no stuff bit is owed (R123 step 3). -/
structure BitDue (d : TxSide) : Prop where
  sampleCtr : d.tx.sampleCtr = 0
  active : d.tx.state ≠ .idle
  sending : d.tx.sending = true
  ones : d.tx.ones ≤ 4
  flagCtr : d.tx.flagCtr ≤ 8192
  dataOwesNoFlag : d.tx.state = .data → d.tx.flagCtr = 0
  queued : d.tx.state = .preamble → d.txq ≠ []

/-- Moreover `tx_byte` is the byte being sent: a flag goes unstuffed, preamble and tail send nothing else (R102,
R103). -/
structure ByteLoaded (d : TxSide) : Prop extends BitDue d where
  nostuff : d.tx.nostuff = true → d.tx.byte = flagByte
  flagsOnly : d.tx.state = .preamble ∨ d.tx.state = .tail → d.tx.nostuff = true
  dataFlag : d.tx.state = .data → (d.tx.nostuff = true ↔ d.tx.byte = flagByte)

/-- What step 3 of `TxNextBit` can do, one constructor per row of R53 and per load (R123 to R128). -/
inductive BoundaryStep (c : TxConfig) (d : TxSide) : Boundary → Prop where
  | preambleFlag : d.tx.state = .preamble → d.tx.flagCtr ≠ 0 →
      BoundaryStep c d (.loaded { d with tx := loadFlag d.tx })
  | preambleEnds (b : Byte) (rest : List Byte) : d.tx.state = .preamble → d.tx.flagCtr = 0 → d.txq = b :: rest →
      BoundaryStep c d (.loaded ⟨loadQueueByte b { d.tx with state := .data }, rest⟩)
  | dataByte (b : Byte) (rest : List Byte) : d.tx.state = .data → d.txq = b :: rest →
      BoundaryStep c d (.loaded ⟨loadQueueByte b d.tx, rest⟩)
  | tailStarts : d.tx.state = .data → d.txq = [] → nFlags c.tail ≠ 0 →
      BoundaryStep c d (.loaded ⟨loadFlag { d.tx with state := .tail, flagCtr := nFlags c.tail }, []⟩)
  | dataEnds : d.tx.state = .data → d.txq = [] → nFlags c.tail = 0 →
      BoundaryStep c d (.wentIdle ⟨goIdle { d.tx with state := .tail, flagCtr := nFlags c.tail }, []⟩)
  | tailFlag : d.tx.state = .tail → d.tx.flagCtr ≠ 0 →
      BoundaryStep c d (.loaded { d with tx := loadFlag d.tx })
  | tailEnds : d.tx.state = .tail → d.tx.flagCtr = 0 →
      BoundaryStep c d (.wentIdle { d with tx := goIdle d.tx })

theorem BitDue.boundaryStep {d : TxSide} (h : BitDue d) (c : TxConfig) : BoundaryStep c d (byteBoundary c d) := by
  cases hs : d.tx.state with
  | idle => exact absurd hs h.active
  | preamble =>
    by_cases hc : d.tx.flagCtr = 0
    · obtain ⟨b, rest, hq⟩ := List.exists_cons_of_ne_nil (h.queued hs)
      have he : byteBoundary c d = .loaded ⟨loadQueueByte b { d.tx with state := .data }, rest⟩ := by
        simp [byteBoundary, dataBoundary, hs, hc, hq]
      exact he ▸ .preambleEnds b rest hs hc hq
    · have hc' : ¬ d.tx.flagCtr = 0#14 := hc
      have he : byteBoundary c d = .loaded { d with tx := loadFlag d.tx } := by simp [byteBoundary, hs, hc']
      exact he ▸ .preambleFlag hs hc
  | data =>
    have he : byteBoundary c d = dataBoundary c d := by simp [byteBoundary, hs]
    rcases dataBoundary_cases c d with ⟨b, rest, hq, hd⟩ | ⟨hq, hn, hd⟩ | ⟨hq, hn, hd⟩ <;> rw [he, hd]
    · exact .dataByte b rest hs hq
    · exact .tailStarts hs hq hn
    · exact .dataEnds hs hq hn
  | tail =>
    have he : byteBoundary c d = tailBoundary d := by simp [byteBoundary, hs]
    rcases tailBoundary_cases d with ⟨hc, ht⟩ | ⟨hc, ht⟩ <;> rw [he, ht]
    · exact .tailFlag hs hc
    · exact .tailEnds hs hc

theorem nFlags_le_8192 (n : BitVec 16) : nFlags n ≤ 8192 := BitVec.le_def.2 (nFlags_le n)

/-- One flag fewer is owed after a flag is loaded. -/
theorem pred_le_8192 {n : BitVec 14} (hn : n ≠ 0) (h : n ≤ 8192) : n - 1 ≤ 8192 := by
  bv_omega

/-- Going idle leaves the values of R51. -/
theorem txSideInv_goIdle {t : TxGroup} (q : List Byte) (hs : t.sampleCtr = 0) (hf : t.flagCtr = 0) :
    TxSideInv ⟨goIdle t, q⟩ := by
  simp [TxSideInv, TxInv, goIdle, hs, hf]

/-- A preamble or tail flag is loaded (R103). -/
theorem BitDue.byteLoaded_loadFlag {d : TxSide} (h : BitDue d) (hd : d.tx.state ≠ .data) (hc : d.tx.flagCtr ≠ 0) :
    ByteLoaded { d with tx := loadFlag d.tx } :=
  ⟨⟨h.sampleCtr, h.active, h.sending, h.ones, pred_le_8192 hc h.flagCtr, fun hs => absurd hs hd, h.queued⟩,
    fun _ => rfl, fun _ => rfl, fun hs => absurd hs hd⟩

/-- A queue byte is loaded; 0x7E goes as a flag (R103). -/
theorem BitDue.byteLoaded_loadQueueByte {d : TxSide} (h : BitDue d) (hd : d.tx.state = .data) (b : Byte)
    (rest : List Byte) : ByteLoaded ⟨loadQueueByte b d.tx, rest⟩ :=
  ⟨⟨h.sampleCtr, h.active, h.sending, h.ones, h.flagCtr, h.dataOwesNoFlag, by simp [loadQueueByte, hd]⟩,
    of_decide_eq_true, by simp [loadQueueByte, hd], fun _ => decide_eq_true_iff⟩

theorem BitDue.dataStarts {d : TxSide} (h : BitDue d) (hc : d.tx.flagCtr = 0) :
    BitDue { d with tx := { d.tx with state := .data } } :=
  ⟨h.sampleCtr, nofun, h.sending, h.ones, h.flagCtr, fun _ => hc, nofun⟩

theorem BitDue.tailStarts {d : TxSide} (h : BitDue d) (c : TxConfig) :
    BitDue ⟨{ d.tx with state := .tail, flagCtr := nFlags c.tail }, []⟩ :=
  ⟨h.sampleCtr, nofun, h.sending, h.ones, nFlags_le_8192 _, nofun, nofun⟩

theorem BoundaryStep.byteLoaded {c : TxConfig} {d d' : TxSide} (h : BitDue d) (hb : BoundaryStep c d (.loaded d')) :
    ByteLoaded d' := by
  cases hb with
  | preambleFlag hs hc => exact h.byteLoaded_loadFlag (by simp [hs]) hc
  | preambleEnds b rest _ hc _ => exact (h.dataStarts hc).byteLoaded_loadQueueByte rfl b rest
  | dataByte b rest hs _ => exact h.byteLoaded_loadQueueByte hs b rest
  | tailStarts _ _ hn => exact (h.tailStarts c).byteLoaded_loadFlag nofun hn
  | tailFlag hs hc => exact h.byteLoaded_loadFlag (by simp [hs]) hc

/-- Sending a bit of the loaded byte keeps the invariant: the run of ones grows by one at most, from at most four, and
a flag's bits are not counted (R102). -/
theorem ByteLoaded.after_txDataBit {d : TxSide} (h : ByteLoaded d) (o : BitOrder) :
    TxSideInv { d with tx := txDataBit o d.tx } := by
  have hsucc : d.tx.ones + 1 ≤ 5 := by have := h.ones; bv_omega
  have hones : (txDataBit o d.tx).ones ≤ 5 := by
    simp only [txDataBit]
    split
    · decide
    · split
      · exact hsucc
      · decide
  have hflag : d.tx.nostuff = true → (txDataBit o d.tx).ones = 0 := fun hn => by simp [txDataBit, hn]
  exact ⟨⟨hones, iff_of_true h.sending h.active, fun hi => absurd hi h.active, fun hn => ⟨h.nostuff hn, hflag hn⟩,
    h.flagsOnly, h.dataFlag, h.flagCtr, fun hs => h.dataOwesNoFlag (hs.resolve_left h.active)⟩, h.queued⟩

/-- What the bit step leaves when step 3 ends so: the first bit of the loaded byte is sent, or the serializer is idle
(R123 steps 3 and 4). -/
def Boundary.bitSent (o : BitOrder) : Boundary → TxSide
  | .loaded d => { d with tx := txDataBit o d.tx }
  | .wentIdle d => d

theorem nextBitActive_of_boundary (c : TxConfig) {d : TxSide} (hno : ¬ StuffOwed d.tx) (hi : d.tx.bitIdx = 0) :
    nextBitActive c d = (byteBoundary c d).bitSent c.bitOrder := by
  rcases nextBitActive_cases c d with ⟨hn, h5, _⟩ | ⟨_, hne, _⟩ | ⟨_, _, ⟨d', hb, he⟩ | ⟨d', hb, he⟩⟩
  · exact absurd ⟨hn, h5⟩ hno
  · exact absurd hi hne
  · rw [he, hb]; rfl
  · rw [he, hb]; rfl

theorem BoundaryStep.txSideInv {c : TxConfig} {d : TxSide} (h : BitDue d) {r : Boundary} (hb : BoundaryStep c d r)
    (o : BitOrder) : TxSideInv (r.bitSent o) := by
  cases r with
  | loaded d' => exact (hb.byteLoaded h).after_txDataBit o
  | wentIdle d' =>
    cases hb with
    | dataEnds _ _ hn => exact txSideInv_goIdle [] h.sampleCtr hn
    | tailEnds _ hc => exact txSideInv_goIdle d.txq h.sampleCtr hc

theorem BitDue.after_boundary {d : TxSide} (h : BitDue d) (c : TxConfig) (hno : ¬ StuffOwed d.tx)
    (hi : d.tx.bitIdx = 0) : TxSideInv (nextBitActive c d) := by
  rw [nextBitActive_of_boundary c hno hi]
  exact (h.boundaryStep c).txSideInv h c.bitOrder

theorem bitDue_startTransmission (c : TxConfig) {d : TxSide} (hs : d.tx.sampleCtr = 0) (hq : d.txq ≠ []) :
    BitDue { d with tx := startTransmission c d.tx } :=
  ⟨hs, by simp [startTransmission], rfl, by simp [startTransmission], nFlags_le_8192 _, by simp [startTransmission],
    fun _ => hq⟩

theorem TxSideInv.byteLoaded {d : TxSide} (h : TxSideInv d) (hsc : d.tx.sampleCtr = 0) (hact : d.tx.state ≠ .idle)
    (hno : ¬ StuffOwed d.tx) : ByteLoaded d := by
  obtain ⟨⟨hones, hsend, -, hflag, hpt, hdata, hctr, hctr0⟩, hq⟩ := h
  have h4 : d.tx.ones ≤ 4 := by
    cases hn : d.tx.nostuff with
    | true => simp [(hflag hn).2]
    | false =>
      have h5 : d.tx.ones ≠ 5 := fun h5 => hno ⟨hn, h5⟩
      bv_omega
  exact ⟨⟨hsc, hact, hsend.2 hact, h4, hctr, fun hs => hctr0 (.inr hs), hq⟩, fun hn => (hflag hn).1, hpt, hdata⟩

/-- A stuff bit keeps the invariant (R101). -/
theorem TxSideInv.after_stuffBit {d : TxSide} (h : TxSideInv d) (hact : d.tx.state ≠ .idle)
    (hn : d.tx.nostuff = false) :
    TxSideInv { d with tx := { d.tx with curBit := false, ones := 0 } } := by
  obtain ⟨⟨-, hsend, -, -, hpt, hdata, hctr, hctr0⟩, hq⟩ := h
  exact ⟨⟨by simp, hsend, fun hi => absurd hi hact, by simp [hn], hpt, hdata, hctr, hctr0⟩, hq⟩

/-- Idle with nothing queued: mark again (R123 step 1). -/
theorem TxSideInv.after_idleMark {d : TxSide} (h : TxSideInv d) (hi : d.tx.state = .idle) :
    TxSideInv { d with tx := { d.tx with curBit := true } } := by
  obtain ⟨⟨hones, hsend, hidle, hflag, hpt, hdata, hctr, hctr0⟩, hq⟩ := h
  exact ⟨⟨hones, hsend, fun _ => ⟨rfl, (hidle hi).2⟩, hflag, hpt, hdata, hctr, hctr0⟩, hq⟩

/-- `startTransmission` leaves no stuff bit owed, and the bit step is at a byte boundary (R122). -/
theorem startTransmission_at_boundary (c : TxConfig) (t : TxGroup) :
    ¬ StuffOwed (startTransmission c t) ∧ (startTransmission c t).bitIdx = 0 := by
  simp [startTransmission]

theorem TxSideInv.after_txNextBit {d : TxSide} (h : TxSideInv d) (c : TxConfig) (hsc : d.tx.sampleCtr = 0) :
    TxSideInv (txNextBit c d) := by
  rcases txNextBit_cases c d with ⟨hi, _, he⟩ | ⟨_, hq, he⟩ | ⟨hact, he⟩ <;> rw [he]
  · exact h.after_idleMark hi
  · obtain ⟨hno, hidx⟩ := startTransmission_at_boundary c d.tx
    exact (bitDue_startTransmission c hsc hq).after_boundary c hno hidx
  · rcases nextBitActive_cases c d with ⟨hn, _, hb⟩ | ⟨hno, _, hb⟩ | ⟨hno, hidx, _⟩
    · exact hb ▸ h.after_stuffBit hact hn
    · exact hb ▸ (h.byteLoaded hsc hact hno).after_txDataBit c.bitOrder
    · exact (h.byteLoaded hsc hact hno).after_boundary c hno hidx

/-! One `TXS` on the transmit side: the bit step if one is due, then the sample -/

/-- Steps 2 to 4 of R120: the phase moves on, and the sample counter. -/
def sampleOut (d : TxSide) : TxSide := { d with tx := stepSampleCtr (ncoStep d.tx).1 }

theorem txSideStep_of_bitStep (c : TxConfig) {d : TxSide} (h : d.tx.sampleCtr = 0) :
    (txSideStep c d).1 = sampleOut (txNextBit c d) := by
  simp [txSideStep, sampleOut, h]

theorem txSideStep_of_insideBit (c : TxConfig) {d : TxSide} (h : d.tx.sampleCtr ≠ 0) :
    (txSideStep c d).1 = sampleOut d := by
  have h' : ¬ d.tx.sampleCtr = 0#3 := h
  simp [txSideStep, sampleOut, h']

@[simp] theorem sampleOut_txq (d : TxSide) : (sampleOut d).txq = d.txq := rfl

theorem TxSideInv.after_sampleOut {d : TxSide} (h : TxSideInv d) : TxSideInv (sampleOut d) := by
  obtain ⟨⟨hones, hsend, hidle, hflag, hpt, hdata, hctr, hctr0⟩, hq⟩ := h
  refine ⟨⟨hones, hsend, fun hi => ?_, hflag, hpt, hdata, hctr, hctr0⟩, hq⟩
  obtain ⟨hmark, -, hrest⟩ := hidle hi
  exact ⟨hmark, if_pos hi, hrest⟩

theorem TxSideInv.after_txSideStep {d : TxSide} (h : TxSideInv d) (c : TxConfig) : TxSideInv (txSideStep c d).1 := by
  by_cases hsc : d.tx.sampleCtr = 0
  · rw [txSideStep_of_bitStep c hsc]
    exact (h.after_txNextBit c hsc).after_sampleOut
  · rw [txSideStep_of_insideBit c hsc]
    exact h.after_sampleOut

end Sys2Proof.Machine
end

section

namespace Sys2Proof.Machine

open Safety

/-! The receive side keeps its invariant: the bit clock (R35, R36), the framer (R38 to R40), the discriminator cells
(R142), the queue and `STATUS`. -/

/-- The bit clock's ranges between operations (R35, R36). -/
def ClockInv (phase rawCnt : BitVec 4) : Prop :=
  phase ≤ 7 ∧ rawCnt ≤ 8 ∧ (phase = rawCnt ∨ phase = rawCnt + 1 ∨ phase + 1 = rawCnt)

/-- The framer's counts between operations (R39, R40, R107). -/
def FramerInv (g : RxGroup) : Prop :=
  (g.sync = false → g.bitCnt = 0) ∧ (g.sync = true → g.ones ≤ 6)

/-- The range of a discriminator cell (R142). -/
def CellInv (x : S16) : Prop := -1016 ≤ asS x ∧ asS x ≤ 1024

theorem rxInv_iff (g : RxGroup) :
    RxInv g ↔ ClockInv g.phase g.rawCnt ∧ FramerInv g ∧ CellInv g.x1 ∧ CellInv g.x2 := by
  simp only [RxInv, ClockInv, FramerInv, CellInv, and_assoc]

/-- The nudged phase: unless a nudge is applied it is the phase, and a nudge needs the counts to be equal and moves by
one at most (R157, R158). -/
theorem nudgedPhase_cases (pol : Bool) (g : RxGroup) :
    nudgedPhase pol g = g.phase.toNat ∨
    (g.rawCnt = g.phase ∧
      ((nudgedPhase pol g = g.phase.toNat + 1 ∧ g.phase.toNat < 4) ∨ nudgedPhase pol g + 1 = g.phase.toNat)) := by
  by_cases hn : pol ≠ g.lastPol ∧ g.rawCnt = g.phase
  · have he : nudgedPhase pol g = nudgePhase g.phase.toNat := if_pos hn
    rcases nudgePhase_cases g.phase.toNat with ⟨hlt, h⟩ | ⟨h4, h⟩ | ⟨hgt, h⟩
    · exact .inr ⟨hn.2, .inl ⟨he.trans h, hlt⟩⟩
    · exact .inl (he.trans (h.trans h4.symm))
    · exact .inr ⟨hn.2, .inr (by omega)⟩
  · exact .inl (if_neg hn)

/-- A decision restarts both counts, from phase 7 at most; otherwise both grow by one, and a nudge, which starts from
equal counts, sets them one apart (R156 to R159). -/
theorem ClockInv.after_clockStep {g : RxGroup} (h : ClockInv g.phase g.rawCnt) (pol : Bool) :
    ClockInv (clockStep pol g).2.phase (clockStep pol g).2.rawCnt := by
  obtain ⟨hp, hr, hd⟩ := h
  have hn := nudgedPhase_cases pol g
  rcases clockStep_cases pol g with ⟨h8, he⟩ | ⟨h8, he⟩ <;> rw [he]
  · have h7 : nudgedPhase pol g + 1 - 8 = 0 := by
      have : g.phase.toNat ≤ 7 := hp
      omega
    simp [ClockInv, h7]
  · generalize nudgedPhase pol g = n at hn h8
    simp only [ClockInv]
    refine ⟨?_, ?_, ?_⟩ <;> bv_omega

/-- The product of two samples lies between -16256 and 16384. -/
theorem sample_mul_range (s d : Sample) : -16256 ≤ sampleValue s * sampleValue d ∧
    sampleValue s * sampleValue d ≤ 16384 := by
  have hs := s.le_toInt
  have hs' := s.toInt_lt
  have hd := d.le_toInt
  have hd' := d.toInt_lt
  norm_num at hs hs' hd hd'
  unfold sampleValue asS
  constructor <;> nlinarith

/-- R142: the discriminator's range, so the wrap to 16 bits changes nothing. -/
theorem discriminate_range (s d : Sample) : -1016 ≤ discriminate s d ∧ discriminate s d ≤ 1024 := by
  obtain ⟨hlo, hhi⟩ := sample_mul_range s d
  have hsra : -1016 ≤ sra (sampleValue s * sampleValue d) discShift ∧
      sra (sampleValue s * sampleValue d) discShift ≤ 1024 := by
    unfold sra discShift
    omega
  have he : discriminate s d = sra (sampleValue s * sampleValue d) discShift :=
    wrapS_of_range (by omega) (by omega)
  rwa [he]

theorem cellInv_newX (g : RxGroup) (s : Sample) : CellInv (wrapU 16 (newX g s)) := by
  have h : -1016 ≤ newX g s ∧ newX g s ≤ 1024 := discriminate_range s g.delay.c3
  have he : asS (wrapU 16 (newX g s)) = newX g s := wrapS_of_range (by omega) (by omega)
  rwa [CellInv, he]

theorem countOne_le_six {n : BitVec 3} (h : countOne n ≠ 7) : countOne n ≤ 6 := by
  bv_omega

theorem FramerInv.after_keepBit {r : RxSide} (h : FramerInv r.rx) (p : Params) (b : Bool) :
    FramerInv (keepBit p b r).rx := by
  unfold FramerInv
  rw [keepBit_sync, keepBit_ones]
  refine ⟨fun hs => ?_, h.2⟩
  rcases keepBit_cases p b r with ⟨_, he⟩ | ⟨hs', _⟩ | ⟨hs', _⟩
  · rw [he]; exact h.1 hs
  · simp [hs] at hs'
  · simp [hs] at hs'

theorem FramerInv.withOnes {g : RxGroup} (h : FramerInv g) {n : BitVec 3} (hn : n ≤ 6) :
    FramerInv { g with ones := n } := ⟨h.1, fun _ => hn⟩

theorem FramerInv.after_hdlcRxBit {r : RxSide} (h : FramerInv r.rx) (p : Params) (b : Bool) :
    FramerInv (hdlcRxBit p b r).rx := by
  rcases hdlcRxBit_cases p b r with ⟨_, _, he⟩ | ⟨_, _, he⟩ | ⟨_, _, he⟩ | ⟨_, h7, he⟩ | ⟨_, _, _, he⟩ <;> rw [he]
  · exact ⟨fun _ => rfl, nofun⟩
  · exact ⟨fun _ => rfl, fun _ => by simp⟩
  · exact h.withOnes (by simp)
  · exact FramerInv.after_keepBit (r := { r with rx := _ }) (h.withOnes (countOne_le_six h7)) p true
  · exact FramerInv.after_keepBit (r := { r with rx := _ }) (h.withOnes (by simp)) p false

/-- The bit clock's cells after `RXS` are those `ClockStep` leaves: the framer does not touch them (R164). -/
theorem rxSideStep_clock (p : Params) (s : Sample) (r : RxSide) :
    (rxSideStep p s r).rx.lastPol = polarity (newY r.rx s) ∧
    (rxSideStep p s r).rx.phase = (clockStep (polarity (newY r.rx s)) (filterStep r.rx s)).2.phase ∧
    (rxSideStep p s r).rx.rawCnt = (clockStep (polarity (newY r.rx s)) (filterStep r.rx s)).2.rawCnt := by
  have hl := clockStep_lastPol (polarity (newY r.rx s)) (filterStep r.rx s)
  rcases rxSideStep_cases p s r with ⟨_, h⟩ | ⟨_, h⟩ <;> rw [h]
  · exact ⟨hl, rfl, rfl⟩
  · have hf := hdlcRxBit_signalPart p (!polarity (newY r.rx s))
      { r with rx := (clockStep (polarity (newY r.rx s)) (filterStep r.rx s)).2 }
    simp only [RxGroup.signalPart, Prod.mk.injEq] at hf
    obtain ⟨-, -, gl, gp, gr⟩ := hf
    exact ⟨gl.trans hl, gp, gr⟩

/-- The framer's cells when the bit clock has ticked are those before the `RXS` (R164). -/
theorem clockStep_filterStep_framer (pol : Bool) (g : RxGroup) (s : Sample) :
    (clockStep pol (filterStep g s)).2.sync = g.sync ∧ (clockStep pol (filterStep g s)).2.ones = g.ones ∧
    (clockStep pol (filterStep g s)).2.bitCnt = g.bitCnt := by
  have h := clockStep_framerPart pol (filterStep g s)
  simp only [RxGroup.framerPart, Prod.mk.injEq] at h
  obtain ⟨-, -, -, hs, ho, hb⟩ := h
  exact ⟨hs, ho, hb⟩

theorem FramerInv.after_clockStep {g : RxGroup} (h : FramerInv g) (pol : Bool) (s : Sample) :
    FramerInv (clockStep pol (filterStep g s)).2 := by
  obtain ⟨hs, ho, hb⟩ := clockStep_filterStep_framer pol g s
  unfold FramerInv
  rwa [hs, ho, hb]

theorem FramerInv.after_rxSideStep {r : RxSide} (h : FramerInv r.rx) (p : Params) (s : Sample) :
    FramerInv (rxSideStep p s r).rx := by
  have hc := h.after_clockStep (polarity (newY r.rx s)) s
  rcases rxSideStep_cases p s r with ⟨_, he⟩ | ⟨_, he⟩ <;> rw [he]
  · exact hc
  · exact FramerInv.after_hdlcRxBit (r := { r with rx := _ }) hc p _

theorem rxInv_rxSideStep {r : RxSide} (h : RxInv r.rx) (p : Params) (s : Sample) : RxInv (rxSideStep p s r).rx := by
  obtain ⟨hclock, hframer, hx1, -⟩ := (rxInv_iff _).1 h
  obtain ⟨-, hphase, hraw⟩ := rxSideStep_clock p s r
  obtain ⟨-, hx, hx', -⟩ := rxSideStep_signal p s r
  refine (rxInv_iff _).2 ⟨?_, hframer.after_rxSideStep p s, ?_, ?_⟩
  · rw [hphase, hraw]
    exact ClockInv.after_clockStep (g := filterStep r.rx s) hclock _
  · exact hx ▸ cellInv_newX r.rx s
  · exact hx' ▸ hx1

theorem QueueStep.length_le {cap : Nat} {r r' : RxSide} (h : QueueStep cap r r') (hq : r.rxq.length ≤ cap) :
    r'.rxq.length ≤ cap := by
  rcases h with ⟨_, he⟩ | ⟨_, hroom, b, he⟩ | ⟨_, _, he⟩ <;> rw [he]
  · exact hq
  · simpa using hroom
  · exact hq

theorem QueueStep.statusInv {cap : Nat} {r r' : RxSide} (h : QueueStep cap r r') (hs : StatusInv r.status) :
    StatusInv r'.status := by
  rcases h with ⟨he, _⟩ | ⟨he, _⟩ | ⟨he, _⟩ <;> rw [he]
  · exact hs
  · exact hs
  · rcases hs with h0 | h1
    · exact .inr (by rw [h0]; rfl)
    · exact .inr (by rw [h1]; rfl)

end Sys2Proof.Machine
end

section

namespace Sys2Proof.Machine

open Safety

/-! Every operation keeps the invariant, and so does every step -/

theorem Inv.txSideInv {s : State} (h : Inv s) (hi : s.initialised = true) : TxSideInv s.txSide := by
  obtain ⟨htx, -, -, -, -, hq⟩ := h.2 hi
  exact ⟨htx, hq⟩

theorem Inv.rxInv {s : State} (h : Inv s) (hi : s.initialised = true) : RxInv s.rx :=
  (h.2 hi).2.1

theorem txInv_reset : TxInv TxGroup.reset := by decide

theorem rxInv_reset : RxInv RxGroup.reset := by decide

/-- `INIT` leaves the invariant behind, from any state with legal parameters (R50, R51). -/
theorem execInit_inv {s t : State} (hp : s.params.wellFormed = true) (h : execInit s = .next t) : Inv t := by
  obtain rfl := (execInit_next s t).1 h
  exact ⟨hp, fun _ => ⟨txInv_reset, rxInv_reset, .inl rfl, by simp, by simp, by simp [TxGroup.reset]⟩⟩

theorem execRxs_inv {x : Sample} {s t : State} (h : Inv s) (ht : execRxs x s = .next t) : Inv t := by
  obtain ⟨hi, rfl⟩ := (execRxs_next x s t).1 ht
  obtain ⟨htx, hrx, hstatus, htxq, hrxq, hpre⟩ := h.2 hi
  have hq := rxSideStep_queueStep s.params x s.rxSide
  exact ⟨h.1, fun _ => ⟨htx, rxInv_rxSideStep hrx s.params x, hq.statusInv hstatus, htxq, hq.length_le hrxq, hpre⟩⟩

/-- `TXS` pops at most one byte and leaves every other queue byte where it is (R54, R68). -/
theorem txSideStep_txq (c : TxConfig) (d : TxSide) :
    (txSideStep c d).1.txq = d.txq ∨ ∃ b, d.txq = b :: (txSideStep c d).1.txq := by
  by_cases hsc : d.tx.sampleCtr = 0
  · rw [txSideStep_of_bitStep c hsc]
    obtain ⟨-, -, hq⟩ := txNextBit_frame c d
    exact hq
  · rw [txSideStep_of_insideBit c hsc]
    exact .inl rfl

theorem txSideStep_txq_length_le (c : TxConfig) (d : TxSide) : (txSideStep c d).1.txq.length ≤ d.txq.length := by
  rcases txSideStep_txq c d with h | ⟨b, h⟩ <;> simp [h]

theorem execTxs_inv {s t : State} (h : Inv s) (ht : execTxs s = .next t) : Inv t := by
  obtain ⟨hi, rfl⟩ := (execTxs_next s t).1 ht
  obtain ⟨-, hrx, hstatus, htxq, hrxq, -⟩ := h.2 hi
  obtain ⟨htx, hpre⟩ := (Inv.txSideInv h hi).after_txSideStep s.txConfig
  exact ⟨h.1, fun _ => ⟨htx, hrx, hstatus, (txSideStep_txq_length_le s.txConfig s.txSide).trans htxq, hrxq, hpre⟩⟩

/-- A push of the transmit queue appends the byte or changes nothing (R65). -/
theorem qPush_queue_cases (cap : Nat) (q : List Byte) (b : Byte) :
    (qPush cap q b).2 = q ∨ (qPush cap q b).2 = q ++ [b] := by
  rcases Nat.lt_or_ge q.length cap with hroom | hfull
  · exact .inr (by rw [qPush_of_room b hroom])
  · exact .inl (by rw [qPush_of_full b hfull])

theorem execTxw_inv {b : Byte} {s t : State} (h : Inv s) (ht : execTxw b s = .next t) : Inv t := by
  obtain ⟨hi, rfl⟩ := (execTxw_next b s t).1 ht
  obtain ⟨htx, hrx, hstatus, htxq, hrxq, hpre⟩ := h.2 hi
  refine ⟨h.1, fun _ => ⟨htx, hrx, hstatus, qPush_length_le b htxq, hrxq, fun hs => ?_⟩⟩
  show (qPush s.params.txqCap s.txq b).2 ≠ []
  rcases qPush_queue_cases s.params.txqCap s.txq b with he | he <;> rw [he]
  · exact hpre hs
  · simp

theorem execRxr_inv {s t : State} (h : Inv s) (ht : execRxr s = .next t) : Inv t := by
  obtain ⟨hi, ⟨b, rest, hq, rfl⟩ | ⟨_, rfl⟩⟩ := (execRxr_next s t).1 ht
  · obtain ⟨htx, hrx, hstatus, htxq, hrxq, hpre⟩ := h.2 hi
    have hrest : rest.length ≤ s.params.rxqCap := by
      rw [hq, List.length_cons] at hrxq
      omega
    exact ⟨h.1, fun _ => ⟨htx, hrx, hstatus, htxq, hrest, hpre⟩⟩
  · exact h

theorem execStcl_inv {s t : State} (h : Inv s) (ht : execStcl s = .next t) : Inv t := by
  obtain ⟨hi, rfl⟩ := (execStcl_next s t).1 ht
  obtain ⟨htx, hrx, -, hq⟩ := h.2 hi
  exact ⟨h.1, fun _ => ⟨htx, hrx, .inl rfl, hq⟩⟩

theorem exec_inv {i : Instr} {s t : State} (h : Inv s) (ht : exec i s = .next t) : Inv t := by
  cases i with
  | init => exact execInit_inv h.1 ht
  | rxs x => exact execRxs_inv h ht
  | txs => exact execTxs_inv h ht
  | strd =>
    obtain ⟨-, rfl⟩ := (execStrd_next s t).1 ht
    exact h
  | stcl => exact execStcl_inv h ht
  | sndrd =>
    obtain ⟨-, rfl⟩ := (execSndrd_next s t).1 ht
    exact h
  | txw b => exact execTxw_inv h ht
  | rxr => exact execRxr_inv h ht

/-- What a step that answers a next state did: nothing, with nothing issued, or one pending operation (R72, R203). -/
theorem step_next_cases {s t : State} (h : step s = .next t) :
    (s.pending = [] ∧ t = s) ∨
    ∃ w rest i, s.pending = w :: rest ∧ decode w = .ok i ∧ exec i { s with pending := rest } = .next t := by
  cases hp : s.pending with
  | nil => exact .inl ⟨rfl, by simpa [step, fetchWord, hp] using h.symm⟩
  | cons w rest =>
    have hf := fetchWord_of_pending_cons hp
    cases hd : decode w with
    | error e => simp [step, hf, hd] at h
    | ok i => exact .inr ⟨w, rest, i, rfl, hd, (step_of_decode_ok hf hd).symm.trans h⟩

/-- Settles O13: each operation keeps the invariant, which does not speak of the pending words. -/
theorem stepKeepsTheInvariant : Obligations.StepKeepsTheInvariant := by
  intro s t h hstep
  rcases step_next_cases hstep with ⟨_, rfl⟩ | ⟨w, rest, i, _, _, hexec⟩
  · exact h
  · have h' : Inv { s with pending := rest } := h
    exact exec_inv h' hexec

/-- Settles O12: the reset state is what `INIT` leaves of itself. -/
theorem resetStateMeetsInvariant : Obligations.ResetStateMeetsInvariant :=
  execInit_inv (s := State.reset) (by decide) rfl

end Sys2Proof.Machine
end

section

namespace Sys2Proof.Machine

open Safety

/-! What `TXS` changes, and the transitions of `tx_state` -/

/-- A bit step that takes a byte from the queue is at a byte boundary with no stuff bit owed (R101, R125). -/
theorem TxSideInv.boundary_of_pop {d : TxSide} (h : TxSideInv d) {c : TxConfig} (hpop : (txNextBit c d).txq ≠ d.txq) :
    d.tx.bitIdx = 0 ∧ ¬ StuffOwed d.tx := by
  obtain ⟨⟨-, -, hidle, -⟩, -⟩ := h
  by_cases hi : d.tx.state = .idle
  · obtain ⟨-, -, hidx, hones, -⟩ := hidle hi
    exact ⟨hidx, fun ⟨_, h5⟩ => by simp [hones] at h5⟩
  · obtain ⟨hi', _⟩ | ⟨hi', _⟩ | ⟨_, he⟩ := txNextBit_cases c d
    · exact absurd hi' hi
    · exact absurd hi' hi
    · rw [he] at hpop
      rcases nextBitActive_cases c d with ⟨_, _, hb⟩ | ⟨_, _, hb⟩ | ⟨hno, hidx, _⟩
      · exact absurd (by rw [hb]) hpop
      · exact absurd (by rw [hb]) hpop
      · exact ⟨hidx, hno⟩

theorem TxSideInv.txSideStep_pops {d : TxSide} (h : TxSideInv d) (c : TxConfig) :
    (txSideStep c d).1.txq = d.txq ∨
    ∃ b, d.txq = b :: (txSideStep c d).1.txq ∧ d.tx.sampleCtr = 0 ∧ d.tx.bitIdx = 0 ∧ ¬ StuffOwed d.tx := by
  by_cases hsc : d.tx.sampleCtr = 0
  · rw [txSideStep_of_bitStep c hsc, sampleOut_txq]
    by_cases hq : (txNextBit c d).txq = d.txq
    · exact .inl hq
    · obtain ⟨-, -, hpop⟩ := txNextBit_frame c d
      obtain ⟨b, hb⟩ := hpop.resolve_left hq
      exact .inr ⟨b, hb, hsc, h.boundary_of_pop hq⟩
  · rw [txSideStep_of_insideBit c hsc]
    exact .inl rfl

theorem sineTable_length : sineTable.length = 256 := by
  simp only [sineTable, List.length_append, List.length_cons, List.length_nil]

theorem sineTable_ne_zero : ∀ v ∈ sineTable, v ≠ 0 := by
  simp only [sineTable, List.forall_mem_append]
  and_intros <;> decide

/-- Law L5: the sine ROM holds no 0 (R131). -/
theorem sineRom_ne_zero (i : BitVec 8) : sineRom i ≠ 0 := by
  have hlt : i.toNat < sineTable.length := by rw [sineTable_length]; exact i.isLt
  rw [sineRom, List.getD_eq_getElem _ _ hlt]
  exact sineTable_ne_zero _ (List.getElem_mem hlt)

theorem txSideStep_sample (c : TxConfig) (d : TxSide) : ∃ i, (txSideStep c d).2 = sineRom i := ⟨_, rfl⟩

/-- Settles O33: the frame is the form of `execTxs`; the pop and the sample are the transmit side's. -/
theorem txsTouchesOnlyTheTransmitSide : Obligations.TxsTouchesOnlyTheTransmitSide := by
  intro s t h ht
  obtain ⟨hi, rfl⟩ := (execTxs_next s t).1 ht
  obtain ⟨i, hsample⟩ := txSideStep_sample s.txConfig s.txSide
  exact ⟨rfl, (Inv.txSideInv h hi).txSideStep_pops s.txConfig, _, rfl, hsample ▸ sineRom_ne_zero i⟩

/-- The preamble ends at a byte boundary exactly when no flag is left (R53, R122, R124). -/
theorem BoundaryStep.state_of_preamble {c : TxConfig} {d : TxSide} {r : Boundary} (hb : BoundaryStep c d r)
    (hs : d.tx.state = .preamble) (o : BitOrder) :
    (r.bitSent o).tx.state = if d.tx.flagCtr = 0 then .data else .preamble := by
  cases hb with
  | preambleFlag _ hc => exact hs.trans (if_neg hc).symm
  | preambleEnds b rest _ hc _ => exact (if_pos hc).symm
  | dataByte b rest hs' _ => simp [hs] at hs'
  | tailStarts hs' _ _ => simp [hs] at hs'
  | dataEnds hs' _ _ => simp [hs] at hs'
  | tailFlag hs' _ => simp [hs] at hs'
  | tailEnds hs' _ => simp [hs] at hs'

/-- R53's rows at a byte boundary. -/
theorem BoundaryStep.state_changes {c : TxConfig} {d : TxSide} {r : Boundary} (hb : BoundaryStep c d r)
    (o : BitOrder) (hne : (r.bitSent o).tx.state ≠ d.tx.state) :
    (d.tx.state = .preamble ∧ d.tx.flagCtr = 0 ∧ (r.bitSent o).tx.state = .data) ∨
    (d.tx.state = .data ∧ d.txq = [] ∧ (r.bitSent o).tx.state = if nFlags c.tail = 0 then .idle else .tail) ∨
    (d.tx.state = .tail ∧ d.tx.flagCtr = 0 ∧ (r.bitSent o).tx.state = .idle) := by
  cases hb with
  | preambleFlag _ _ => exact absurd rfl hne
  | preambleEnds b rest hs hc _ => exact .inl ⟨hs, hc, rfl⟩
  | dataByte b rest _ _ => exact absurd rfl hne
  | tailStarts hs hq hn => exact .inr (.inl ⟨hs, hq, (if_neg hn).symm⟩)
  | dataEnds hs hq hn => exact .inr (.inl ⟨hs, hq, (if_pos hn).symm⟩)
  | tailFlag _ _ => exact absurd rfl hne
  | tailEnds hs hc => exact .inr (.inr ⟨hs, hc, rfl⟩)

/-- R53's table for one bit step. -/
theorem TxSideInv.state_changes {d : TxSide} (h : TxSideInv d) (c : TxConfig) (hsc : d.tx.sampleCtr = 0)
    (hne : (txNextBit c d).tx.state ≠ d.tx.state) :
    (d.tx.state = .idle ∧ d.txq ≠ [] ∧
      (txNextBit c d).tx.state = if nFlags c.preamble = 0 then .data else .preamble) ∨
    (d.tx.bitIdx = 0 ∧ d.tx.state = .preamble ∧ d.tx.flagCtr = 0 ∧ (txNextBit c d).tx.state = .data) ∨
    (d.tx.bitIdx = 0 ∧ d.tx.state = .data ∧ ¬ StuffOwed d.tx ∧ d.txq = [] ∧
      (txNextBit c d).tx.state = if nFlags c.tail = 0 then .idle else .tail) ∨
    (d.tx.bitIdx = 0 ∧ d.tx.state = .tail ∧ d.tx.flagCtr = 0 ∧ (txNextBit c d).tx.state = .idle) := by
  rcases txNextBit_cases c d with ⟨_, _, he⟩ | ⟨hi, hq, he⟩ | ⟨hact, he⟩ <;> rw [he] at hne ⊢
  · exact absurd rfl hne
  · obtain ⟨hno, hidx⟩ := startTransmission_at_boundary c d.tx
    have hb := (bitDue_startTransmission c hsc hq).boundaryStep c
    rw [nextBitActive_of_boundary c hno hidx]
    exact .inl ⟨hi, hq, hb.state_of_preamble rfl c.bitOrder⟩
  · rcases nextBitActive_cases c d with ⟨_, _, hs⟩ | ⟨_, _, hs⟩ | ⟨hno, hidx, _⟩
    · exact absurd (by rw [hs]) hne
    · exact absurd (by rw [hs]; rfl) hne
    · have hb := (h.byteLoaded hsc hact hno).boundaryStep c
      rw [nextBitActive_of_boundary c hno hidx] at hne ⊢
      rcases hb.state_changes c.bitOrder hne with ⟨hs, hc, ht⟩ | ⟨hs, hq, ht⟩ | ⟨hs, hc, ht⟩
      · exact .inr (.inl ⟨hidx, hs, hc, ht⟩)
      · exact .inr (.inr (.inl ⟨hidx, hs, hno, hq, ht⟩))
      · exact .inr (.inr (.inr ⟨hidx, hs, hc, ht⟩))

/-! Which operation may write which state (R52) -/

/-- Settles O42: the frame is the form of `execRxs`, the push and the overrun are the receive side's `QueueStep`. -/
theorem rxsTouchesOnlyTheReceiveSide : Obligations.RxsTouchesOnlyTheReceiveSide := by
  intro x s t ht
  obtain ⟨-, rfl⟩ := (execRxs_next x s t).1 ht
  exact ⟨rfl, rxSideStep_queueStep s.params x s.rxSide⟩

/-- Settles O55, operation by operation. -/
theorem stateIsWrittenOnlyByItsOwner : Obligations.StateIsWrittenOnlyByItsOwner := by
  intro i s t ht
  cases i with
  | init =>
    obtain rfl := (execInit_next s t).1 ht
    simp
  | rxs x =>
    obtain ⟨-, rfl⟩ := (execRxs_next x s t).1 ht
    have hq : (rxSideStep s.params x s.rxSide).rxq ≠ s.rxq →
        ∃ b, (rxSideStep s.params x s.rxSide).rxq = s.rxq ++ [b] := by
      intro hne
      rcases rxSideStep_queueStep s.params x s.rxSide with ⟨_, he⟩ | ⟨_, _, he⟩ | ⟨_, _, he⟩
      · exact absurd he hne
      · exact he
      · exact absurd he hne
    simpa using hq
  | txs =>
    obtain ⟨-, rfl⟩ := (execTxs_next s t).1 ht
    have hq := (txSideStep_txq s.txConfig s.txSide).resolve_left
    simpa using hq
  | strd =>
    obtain ⟨-, rfl⟩ := (execStrd_next s t).1 ht
    simp
  | stcl =>
    obtain ⟨-, rfl⟩ := (execStcl_next s t).1 ht
    simp
  | sndrd =>
    obtain ⟨-, rfl⟩ := (execSndrd_next s t).1 ht
    simp
  | txw b =>
    obtain ⟨-, rfl⟩ := (execTxw_next b s t).1 ht
    have hq := (qPush_queue_cases s.params.txqCap s.txq b).resolve_left
    simpa using hq
  | rxr =>
    obtain ⟨-, ⟨b, rest, hq, rfl⟩ | ⟨_, rfl⟩⟩ := (execRxr_next s t).1 ht
    · simp [hq]
    · simp

/-- Settles O34: only `TXS` in a bit step and `INIT` write `tx_state`. -/
theorem serializerTransitionsAreTheTables : Obligations.SerializerTransitionsAreTheTables := by
  intro i s t h ht hne
  have howner : i = .txs ∨ i = .init :=
    (stateIsWrittenOnlyByItsOwner i s t ht).1 fun htx => hne (by rw [htx])
  rcases howner with rfl | rfl
  · obtain ⟨hi, rfl⟩ := (execTxs_next s t).1 ht
    by_cases hsc : s.tx.sampleCtr = 0
    · have hside : s.txSide.tx.sampleCtr = 0 := hsc
      rw [txSideStep_of_bitStep s.txConfig hside] at hne ⊢
      exact .inr ⟨rfl, hsc, (Inv.txSideInv h hi).state_changes s.txConfig hsc hne⟩
    · have hside : s.txSide.tx.sampleCtr ≠ 0 := hsc
      rw [txSideStep_of_insideBit s.txConfig hside] at hne
      exact absurd rfl hne
  · obtain rfl := (execInit_next s t).1 ht
    exact .inl ⟨rfl, rfl⟩

/-! The transitions of `rx_sync` -/

theorem countOne_eq_seven {n : BitVec 3} (h : countOne n = 7) (h6 : n ≤ 6) : n = 6 := by
  unfold countOne at h
  split at h <;> bv_omega

/-- The framer starts or stops receiving only on a bit after six ones: a 0, the flag, or a 1, the seventh (R107,
R108). -/
theorem FramerInv.sync_changes_of_bit {r : RxSide} (h : FramerInv r.rx) {p : Params} {b : Bool}
    (hne : (hdlcRxBit p b r).rx.sync ≠ r.rx.sync) :
    (hdlcRxBit p b r).rx.bitCnt = 0 ∧ r.rx.ones = 6 ∧
    ((b = false ∧ (hdlcRxBit p b r).rx.sync = true ∧ (hdlcRxBit p b r).rx.ones = 0) ∨
     (b = true ∧ (hdlcRxBit p b r).rx.sync = false ∧ (hdlcRxBit p b r).rx.ones = 7)) := by
  rcases hdlcRxBit_cases p b r with ⟨hb, h7, he⟩ | ⟨hb, h6, he⟩ | ⟨_, _, he⟩ | ⟨_, _, he⟩ | ⟨_, _, _, he⟩ <;>
    rw [he] at hne ⊢
  · have hs : r.rx.sync = true := Bool.eq_true_of_not_eq_false fun hs => hne hs.symm
    exact ⟨rfl, countOne_eq_seven h7 (h.2 hs), .inr ⟨hb, rfl, rfl⟩⟩
  · exact ⟨rfl, h6, .inl ⟨hb, rfl, rfl⟩⟩
  · exact absurd rfl hne
  · exact absurd (keepBit_sync ..) hne
  · exact absurd (keepBit_sync ..) hne

theorem clockStep_rawCnt_of_decided {pol : Bool} {g : RxGroup} (h : (clockStep pol g).1 = true) :
    (clockStep pol g).2.rawCnt = 0 := by
  rcases clockStep_cases pol g with ⟨_, he⟩ | ⟨_, he⟩ <;> rw [he] at h ⊢
  simp at h

theorem FramerInv.sync_changes_of_rxs {r : RxSide} (h : FramerInv r.rx) {p : Params} {x : Sample}
    (hne : (rxSideStep p x r).rx.sync ≠ r.rx.sync) :
    (rxSideStep p x r).rx.rawCnt = 0 ∧ (rxSideStep p x r).rx.bitCnt = 0 ∧ r.rx.ones = 6 ∧
    (((rxSideStep p x r).rx.sync = true ∧ (rxSideStep p x r).rx.lastPol = true ∧
        (rxSideStep p x r).rx.ones = 0) ∨
     ((rxSideStep p x r).rx.sync = false ∧ (rxSideStep p x r).rx.lastPol = false ∧
        (rxSideStep p x r).rx.ones = 7)) := by
  obtain ⟨hpol, -, hraw⟩ := rxSideStep_clock p x r
  obtain ⟨hs, ho, -⟩ := clockStep_filterStep_framer (polarity (newY r.rx x)) r.rx x
  rw [hpol, hraw]
  rcases rxSideStep_cases p x r with ⟨_, he⟩ | ⟨hdecided, he⟩
  · exact absurd (by rw [he]; exact hs) hne
  · rw [he] at hne ⊢
    have hframer := h.after_clockStep (polarity (newY r.rx x)) x
    obtain ⟨hbit, h6, hrow⟩ :=
      FramerInv.sync_changes_of_bit (r := { r with rx := _ }) hframer (by rw [hs]; exact hne)
    refine ⟨clockStep_rawCnt_of_decided hdecided, hbit, ho ▸ h6, ?_⟩
    rcases hrow with ⟨hb, hrow⟩ | ⟨hb, hrow⟩
    · exact .inl ⟨hrow.1, by simpa using hb, hrow.2⟩
    · exact .inr ⟨hrow.1, by simpa using hb, hrow.2⟩

/-- Settles O53: only `RXS` and `INIT` write `rx_sync`. -/
theorem syncTransitionsAreTheTables : Obligations.SyncTransitionsAreTheTables := by
  intro i s t h ht hne
  obtain ⟨-, hrx, -⟩ := stateIsWrittenOnlyByItsOwner i s t ht
  rcases hrx fun he => hne (by rw [he]) with ⟨x, rfl⟩ | rfl
  · obtain ⟨hi, rfl⟩ := (execRxs_next x s t).1 ht
    obtain ⟨-, hframer, -⟩ := (rxInv_iff _).1 (Inv.rxInv h hi)
    exact .inr ⟨x, rfl, FramerInv.sync_changes_of_rxs (r := s.rxSide) hframer hne⟩
  · obtain rfl := (execInit_next s t).1 ht
    exact .inl ⟨rfl, rfl⟩

end Sys2Proof.Machine
end

section

namespace Sys2Proof.Machine

/-! The word fetched after one is placed or issued (R72, R92, log 10). -/

theorem step_of_decode_error {s s' : State} {w : OpWord} {e : DecodeError} (hf : fetchWord s = some (w, s'))
    (hd : decode w = .error e) : step s = .refused .reservedEncoding := by
  simp only [step, hf, hd]

/-- A placed number is fetched next, and the words pending before it stay pending. -/
theorem fetchWord_withFetchWord (s : State) (nbits w : Nat) :
    fetchWord (s.withFetchWord nbits w) = some ((tableWord nbits w).getD noOperationWord, s) :=
  fetchWord_of_pending_cons (s.withFetchWord_pending nbits w)

/-- With nothing pending the issued word is fetched next. -/
theorem fetchWord_issue {s : State} (w : OpWord) (hp : s.pending = []) : fetchWord (s.issue w) = some (w, s) := by
  have hw : (s.issue w).pending = [w] := by simp [hp]
  rw [fetchWord_of_pending_cons hw, ← hp]
  rfl

/-- The placed word decodes as its number does; a number that is no 20-bit word stands as a reserved one (R90,
log 10). -/
theorem decode_placed_toOption (nbits w : Nat) :
    (decode ((tableWord nbits w).getD noOperationWord)).toOption = decodeTableWord nbits w := by
  unfold decodeTableWord
  cases tableWord nbits w with
  | none => decide
  | some word => rfl

theorem decode_ok_of_toOption {w : OpWord} {i : Instr} (h : (decode w).toOption = some i) : decode w = .ok i := by
  cases hd : decode w with
  | ok j => simpa [hd, Except.toOption] using h
  | error e => simp [hd, Except.toOption] at h

theorem decode_error_of_toOption {w : OpWord} (h : (decode w).toOption = none) : ∃ e, decode w = .error e := by
  cases hd : decode w with
  | ok j => simp [hd, Except.toOption] at h
  | error e => exact ⟨e, rfl⟩

/-- Settles O7: the word fetched is the placed or issued one. -/
theorem placedWordRunsNext : Obligations.PlacedWordRunsNext := by
  refine ⟨fun s nbits w i h => ?_, fun s nbits w h => ?_, fun s w i hp hd => ?_⟩
  · have hd := decode_ok_of_toOption ((decode_placed_toOption nbits w).trans h)
    exact step_of_decode_ok (fetchWord_withFetchWord s nbits w) hd
  · obtain ⟨e, hd⟩ := decode_error_of_toOption ((decode_placed_toOption nbits w).trans h)
    exact step_of_decode_error (fetchWord_withFetchWord s nbits w) hd
  · exact step_of_decode_ok (fetchWord_issue w hp) hd

/-! The queues (R64 to R66) -/

theorem qFull_eq_false_iff (cap : Nat) (q : List Byte) : qFull cap q = false ↔ q.length < cap := by
  rw [Bool.eq_false_iff, ne_eq, qFull_iff, Nat.not_le]

theorem qPop_eq_none_iff (q : List Byte) : qPop q = none ↔ q = [] := by
  cases q <;> simp

/-- Settles O21: the push by whether there is room, the pop by the queue's oldest byte. -/
theorem queuesAreFirstInFirstOut : Obligations.QueuesAreFirstInFirstOut := by
  intro cap q b
  refine ⟨fun hf => qPush_of_full b ((qFull_iff cap q).1 hf),
    fun hr => qPush_of_room b ((qFull_eq_false_iff cap q).1 hr),
    (qEmpty_iff q).trans (qPop_eq_none_iff q).symm, fun c rest hp => ?_⟩
  obtain rfl := qPop_some hp
  refine ⟨rfl, fun hr => ?_⟩
  rw [qPush_of_room b ((qFull_eq_false_iff cap _).1 hr), List.cons_append, qPop_cons]

end Sys2Proof.Machine
end

section

namespace Sys2Proof.Machine

open Safety

/-! What `RXS` and `TXS` read (R199) -/

/-- `RXS` reads the receive side and the parameters alone, so a state `s` that agrees on them says what it does in `u`
(R199). -/
theorem execRxs_of_rxSide_eq (x : Sample) {s u : State} (hi : u.initialised = true) (hp : u.params = s.params)
    (hr : u.rxSide = s.rxSide) :
    execRxs x u = .next { u.withRxSide (rxSideStep s.params x s.rxSide) with result := none } := by
  rw [← hp, ← hr]
  exact (execRxs_next x u _).2 ⟨hi, rfl⟩

/-- `TXS` reads the transmit side and the configuration alone, so a state `s` that agrees on them says what it does in
`u` (R120, R199). -/
theorem execTxs_of_txSide_eq {s u : State} (hi : u.initialised = true) (hc : u.txConfig = s.txConfig)
    (ht : u.txSide = s.txSide) :
    execTxs u = .next { u.withTxSide (txSideStep s.txConfig s.txSide).1 with
      result := some (.sample (txSideStep s.txConfig s.txSide).2) } := by
  rw [← hc, ← ht]
  exact (execTxs_next u _).2 ⟨hi, rfl⟩

/-! The signal registers after `RXS` (R61, R140 to R144) -/

/-- The discriminator value needs no wrap: it is the floor of the product over 16 (R142). -/
theorem discriminate_eq (s d : Sample) : discriminate s d = s.toInt * d.toInt / 16 := by
  obtain ⟨hlo, hhi⟩ := sample_mul_range s d
  exact wrapS_of_range (v := sra (sampleValue s * sampleValue d) discShift)
    (by unfold sra discShift; omega) (by unfold sra discShift; omega)

/-- The new discriminator cell holds the discriminator value as it is (R142). -/
theorem toInt_wrapU_newX (g : RxGroup) (s : Sample) : (wrapU 16 (newX g s)).toInt = newX g s := by
  obtain ⟨hlo, hhi⟩ := discriminate_range s g.delay.c3
  exact wrapS_of_range (v := discriminate s g.delay.c3) (by omega) (by omega)

/-- The filter output with R143's coefficients written out. -/
theorem newY_eq (g : RxGroup) (s : Sample) :
    newY g s = (newX g s + 2 * g.x1.toInt + g.x2.toInt + (15 * g.y1.toInt - 5 * g.y2.toInt) / 16).bmod 65536 := by
  rw [newY, lowPass, wrapS_eq]
  congr 1
  simp only [asS, sra]
  ring_nf

/-- The new filter cell holds the filter output, which is already reduced to 16 bits (R143). -/
theorem toInt_wrapU_newY (g : RxGroup) (s : Sample) : (wrapU 16 (newY g s)).toInt = newY g s :=
  congrArg asS (wrapU_wrapS 16 _)

/-- Settles O41: the cells are the receive side's, and the wraps to 16 bits lose nothing of what was computed. -/
theorem rxsMovesTheSignalRegisters : Obligations.RxsMovesTheSignalRegisters := by
  intro x s hi
  obtain ⟨hd, hx1, hx2, hy1, hy2⟩ := rxSideStep_signal s.params x s.rxSide
  obtain ⟨hpol, -, -⟩ := rxSideStep_clock s.params x s.rxSide
  have hX : (rxSideStep s.params x s.rxSide).rx.x1.toInt = newX s.rx x :=
    (congrArg BitVec.toInt hx1).trans (toInt_wrapU_newX s.rx x)
  have hY : (rxSideStep s.params x s.rxSide).rx.y1.toInt = newY s.rx x :=
    (congrArg BitVec.toInt hy1).trans (toInt_wrapU_newY s.rx x)
  refine ⟨_, execRxs_of_rxSide_eq x hi rfl rfl, hd, ?_, hx2, ?_, hy2, ?_⟩
  · exact hX.trans (discriminate_eq x s.rx.delay.c3)
  · exact hY.trans (by rw [newY_eq, ← hX]; rfl)
  · exact hpol.trans (congrArg polarity hY.symm)

/-! The order of `TXS` and `RXS` (R52, R73) -/

/-- The results left on the way aside, the two sides may be replaced in either order. -/
theorem forgetResult_withTxSide_withRxSide (s : State) (d : TxSide) (r : RxSide) (v w v' w' : Option OpResult) :
    forgetResult { ({ s.withTxSide d with result := v } : State).withRxSide r with result := w } =
      forgetResult { ({ s.withRxSide r with result := v' } : State).withTxSide d with result := w' } :=
  (congrArg forgetResult (s.withTxSide_withRxSide d r) :)

/-- Settles O56: neither operation reads what the other writes, so each takes the same step in either order, and the two
sides they replace share no field. -/
theorem orderInsideAPeriodDoesNotMatter : Obligations.OrderInsideAPeriodDoesNotMatter := by
  intro x s hi
  exact ⟨_, _, _, _,
    execTxs_of_txSide_eq (s := s) hi rfl rfl, execRxs_of_rxSide_eq x (s := s) hi rfl rfl,
    execRxs_of_rxSide_eq x (s := s) hi rfl rfl, execTxs_of_txSide_eq (s := s) hi rfl rfl,
    forgetResult_withTxSide_withRxSide s _ _ _ _ _ _, rfl⟩

end Sys2Proof.Machine
end

section

namespace Sys2Proof

/-! The decoder, by the two fields of a word (R80 to R84, R90) -/

theorem shiftRight_toNat_eq_opField (w : OpWord) : (w >>> 16).toNat = (opField w).toNat := by
  have hw := w.isLt
  simp only [opField, BitVec.extractLsb'_toNat, BitVec.toNat_ushiftRight, Nat.shiftRight_eq_div_pow]
  omega

theorem setWidth_eq_operandField (w : OpWord) : w.setWidth 16 = operandField w :=
  BitVec.setWidth_eq_extractLsb' (by omega)

/-- A word is its two fields (R80). -/
theorem opField_append_operandField (w : OpWord) : opField w ++ operandField w = w :=
  (BitVec.extractLsb'_append_extractLsb'_eq_extractLsb' rfl).trans BitVec.extractLsb'_eq_self

theorem encode_eq_iff (i : Instr) (w : OpWord) :
    encode i = w ↔ opField w = opCode i ∧ operandField w = operandBits i := by
  constructor
  · rintro rfl
    exact ⟨Laws.EncodedWordIsLegal.opField_encode i, Laws.EncodedWordIsLegal.operandField_encode i⟩
  · rintro ⟨hop, hoperand⟩
    rw [encode, ← hop, ← hoperand, opField_append_operandField]

theorem decodeN_ok_iff (i j : Instr) (operand : BitVec 16) :
    decodeN i operand = .ok j ↔ i = j ∧ operand = 0 := by
  by_cases h : operand = 0#16 <;> simp [decodeN, h]

/-- A widened byte is an operand with its must-be-zero bits clear (R83, R84). -/
theorem eq_setWidth_iff (operand : BitVec 16) (x : BitVec 8) :
    operand = x.setWidth 16 ↔ operand >>> 8 = 0 ∧ operand.setWidth 8 = x := by
  bv_omega

theorem decodeByte_ok_iff (f : BitVec 8 → Instr) (operand : BitVec 16) (j : Instr) :
    decodeByte f operand = .ok j ↔ ∃ x : BitVec 8, f x = j ∧ operand = x.setWidth 16 := by
  simp only [eq_setWidth_iff]
  by_cases h : operand >>> 8 = 0#16 <;> simp [decodeByte, h]

/-- What an arm of format N tells of the word it reads (R82). -/
theorem fields_of_decodeN {w : OpWord} {i j : Instr} (hop : (opField w).toNat = (opCode i).toNat)
    (hz : operandBits i = 0) (h : decodeN i (operandField w) = .ok j) :
    opField w = opCode j ∧ operandField w = operandBits j := by
  obtain ⟨rfl, hoperand⟩ := (decodeN_ok_iff ..).1 h
  exact ⟨BitVec.eq_of_toNat_eq hop, hoperand.trans hz.symm⟩

/-- What an arm of format S or B tells of the word it reads (R83, R84). -/
theorem fields_of_decodeByte {w : OpWord} {f : BitVec 8 → Instr} {j : Instr}
    (hop : ∀ x, (opField w).toNat = (opCode (f x)).toNat) (hx : ∀ x, operandBits (f x) = x.setWidth 16)
    (h : decodeByte f (operandField w) = .ok j) : opField w = opCode j ∧ operandField w = operandBits j := by
  obtain ⟨x, rfl, hoperand⟩ := (decodeByte_ok_iff ..).1 h
  exact ⟨BitVec.eq_of_toNat_eq (hop x), hoperand.trans (hx x).symm⟩

/-- Each arm of the decoder reads one operation code, in the format R81 gives it. -/
theorem decode_ok_iff (w : OpWord) (i : Instr) :
    decode w = .ok i ↔ opField w = opCode i ∧ operandField w = operandBits i := by
  simp only [decode, shiftRight_toNat_eq_opField, setWidth_eq_operandField]
  constructor
  · intro h
    split at h
    next hop => exact fields_of_decodeN (i := .init) hop rfl h
    next hop => exact fields_of_decodeByte (f := .rxs) (fun _ => hop) (fun _ => rfl) h
    next hop => exact fields_of_decodeN (i := .txs) hop rfl h
    next hop => exact fields_of_decodeN (i := .strd) hop rfl h
    next hop => exact fields_of_decodeN (i := .stcl) hop rfl h
    next hop => exact fields_of_decodeN (i := .sndrd) hop rfl h
    next hop => exact fields_of_decodeByte (f := .txw) (fun _ => hop) (fun _ => rfl) h
    next hop => exact fields_of_decodeN (i := .rxr) hop rfl h
    next => cases h
  · rintro ⟨hop, hoperand⟩
    rw [hop, hoperand]
    cases i with
    | init => rfl
    | rxs x => exact (decodeByte_ok_iff ..).2 ⟨x, rfl, rfl⟩
    | txs => rfl
    | strd => rfl
    | stcl => rfl
    | sndrd => rfl
    | txw x => exact (decodeByte_ok_iff ..).2 ⟨x, rfl, rfl⟩
    | rxr => rfl

/-- Settles O1: decoder and encoder name the same two fields of the word. -/
theorem decodeInvertsEncode : Obligations.DecodeInvertsEncode := fun w i =>
  (decode_ok_iff w i).trans (encode_eq_iff i w).symm

/-- Settles O4, by evaluation: the ten words are fixed. -/
theorem specWordsDecode : Obligations.SpecWordsDecode := by
  and_intros <;> rfl

/-! Reserved words (R90) -/

/-- R90's condition on the two fields of a word. -/
def ReservedFields (op : BitVec 4) (operand : BitVec 16) : Prop :=
  8 ≤ op ∨ (op ≠ 1 ∧ op ≠ 6 ∧ operand ≠ 0) ∨ ((op = 1 ∨ op = 6) ∧ operand >>> 8 ≠ 0)

/-- A legal code other than those of `RXS` and `TXW` names an operation without operand (R81, R82). -/
theorem exists_operation_of_formatN {op : BitVec 4} (h8 : ¬ 8 ≤ op) (h1 : op ≠ 1) (h6 : op ≠ 6) :
    ∃ i, op = opCode i ∧ operandBits i = 0 := by
  have hop : op = 0 ∨ op = 2 ∨ op = 3 ∨ op = 4 ∨ op = 5 ∨ op = 7 := by bv_omega
  rcases hop with rfl | rfl | rfl | rfl | rfl | rfl
  exacts [⟨.init, rfl, rfl⟩, ⟨.txs, rfl, rfl⟩, ⟨.strd, rfl, rfl⟩, ⟨.stcl, rfl, rfl⟩, ⟨.sndrd, rfl, rfl⟩,
    ⟨.rxr, rfl, rfl⟩]

theorem eq_widened_of_high_clear {operand : BitVec 16} (h : ¬ operand >>> 8 ≠ 0) :
    operand = (operand.setWidth 8).setWidth 16 :=
  (eq_setWidth_iff operand _).2 ⟨not_not.1 h, rfl⟩

theorem not_reservedFields_operation (i : Instr) : ¬ ReservedFields (opCode i) (operandBits i) := by
  have hbyte (x : BitVec 8) : (x.setWidth 16 : BitVec 16) >>> 8 = 0 := ((eq_setWidth_iff _ x).1 rfl).1
  cases i with
  | rxs x => simpa [ReservedFields, opCode, operandBits] using hbyte x
  | txw x => simpa [ReservedFields, opCode, operandBits] using hbyte x
  | _ => simp [ReservedFields, opCode, operandBits]

theorem exists_operation_of_not_reserved {op : BitVec 4} {operand : BitVec 16} (h : ¬ ReservedFields op operand) :
    ∃ i, op = opCode i ∧ operand = operandBits i := by
  simp only [ReservedFields, not_or, not_and] at h
  obtain ⟨h8, hn, hb⟩ := h
  by_cases h1 : op = 1
  · exact ⟨.rxs (operand.setWidth 8), h1, eq_widened_of_high_clear (hb (.inl h1))⟩
  by_cases h6 : op = 6
  · exact ⟨.txw (operand.setWidth 8), h6, eq_widened_of_high_clear (hb (.inr h6))⟩
  obtain ⟨i, hop, hz⟩ := exists_operation_of_formatN h8 h1 h6
  exact ⟨i, hop, (not_not.1 (hn h1 h6)).trans hz.symm⟩

/-- A word decodes exactly when it is not reserved. -/
theorem exists_decode_ok_iff (w : OpWord) :
    (∃ i, decode w = .ok i) ↔ ¬ ReservedFields (opField w) (operandField w) := by
  simp only [decode_ok_iff]
  constructor
  · rintro ⟨i, hop, hoperand⟩
    rw [hop, hoperand]
    exact not_reservedFields_operation i
  · exact exists_operation_of_not_reserved

open Machine

theorem whenInitialised_ne_reservedEncoding {s t : State} : whenInitialised s t ≠ .refused .reservedEncoding := by
  unfold whenInitialised
  split <;> nofun

/-- No operation is refused as a reserved word: only the decoder is the judge of that (R186). -/
theorem exec_ne_reservedEncoding (i : Instr) (s : State) : exec i s ≠ .refused .reservedEncoding := by
  cases i with
  | init => nofun
  | rxr =>
    simp only [exec, execRxr]
    split <;> exact whenInitialised_ne_reservedEncoding
  | _ => exact whenInitialised_ne_reservedEncoding

/-- Settles O2: the step refuses the words that do not decode, and those are the reserved ones. -/
theorem reservedWordsAreRefused : Obligations.ReservedWordsAreRefused := by
  intro s w rest hp
  show _ ↔ ReservedFields (opField w) (operandField w)
  have hf := fetchWord_of_pending_cons hp
  cases hd : decode w with
  | ok i =>
    rw [step_of_decode_ok hf hd]
    exact iff_of_false (exec_ne_reservedEncoding i _) ((exists_decode_ok_iff w).1 ⟨i, hd⟩)
  | error e =>
    have hnone : ¬ ∃ i, decode w = .ok i := by simp [hd]
    exact iff_of_true (step_of_decode_error hf hd) (not_not.1 (mt (exists_decode_ok_iff w).2 hnone))

/-! The opcode table (R95) -/

/-- The operand bits R82 to R84 require to be zero. -/
def mustBeZeroMask : Instr → BitVec 16
  | .rxs _ | .txw _ => 0xFF00
  | _ => 0xFFFF

/-- The table row of an operation: its code, and every operand bit that must be zero. -/
def rowOf (i : Instr) : TableRow := ⟨i.mnemonic, opCode i ++ 0#16, 0xF#4 ++ mustBeZeroMask i⟩

/-- One operation of each row, in the order of the table. -/
def tableOperations : List Instr := [.init, .rxs 0, .txs, .strd, .stcl, .sndrd, .txw 0, .rxr]

theorem opcodeTable_eq_map_rowOf : opcodeTable = tableOperations.map rowOf := by
  simp [opcodeTable, tableOperations, rowOf, Instr.mnemonic, opCode, mustBeZeroMask]

theorem mem_opcodeTable_iff (row : TableRow) : row ∈ opcodeTable ↔ ∃ i, rowOf i = row := by
  rw [opcodeTable_eq_map_rowOf, List.mem_map]
  constructor
  · rintro ⟨i, -, hi⟩
    exact ⟨i, hi⟩
  · rintro ⟨i, rfl⟩
    cases i with
    | rxs x => exact ⟨.rxs 0, by decide, rfl⟩
    | txw b => exact ⟨.txw 0, by decide, rfl⟩
    | _ => exact ⟨_, by decide, rfl⟩

theorem append_eq_append_zero_iff (op code : BitVec 4) (x : BitVec 16) :
    op ++ x = code ++ 0#16 ↔ op = code ∧ x = 0 := by
  constructor
  · intro h
    have hop := congrArg (BitVec.extractLsb' 16 4) h
    have hx := congrArg (BitVec.extractLsb' 0 16) h
    simp only [BitVec.extractLsb'_append_eq_left, BitVec.extractLsb'_append_eq_right] at hop hx
    exact ⟨hop, hx⟩
  · rintro ⟨rfl, rfl⟩
    rfl

theorem rowOf_selects_iff (i : Instr) (w : OpWord) :
    (rowOf i).selects w = true ↔ opField w = opCode i ∧ operandField w &&& mustBeZeroMask i = 0 := by
  have hop : opField w &&& 0xF#4 = opField w := BitVec.and_allOnes
  have hand : w &&& (0xF#4 ++ mustBeZeroMask i) = opField w ++ (operandField w &&& mustBeZeroMask i) := by
    conv_lhs => rw [← opField_append_operandField w, BitVec.and_append, hop]
  simp only [TableRow.selects, rowOf, hand, beq_iff_eq, append_eq_append_zero_iff]

theorem and_high_eq_zero_iff (operand : BitVec 16) : operand &&& 0xFF00#16 = 0 ↔ operand >>> 8 = 0 := by
  have hsplit : operand.extractLsb' 8 8 ++ operand.extractLsb' 0 8 = operand :=
    (BitVec.extractLsb'_append_extractLsb'_eq_extractLsb' rfl).trans BitVec.extractLsb'_eq_self
  have hhigh : operand.extractLsb' 8 8 &&& 0xFF#8 = operand.extractLsb' 8 8 := BitVec.and_allOnes
  have hand : operand &&& (0xFF#8 ++ 0#8) = operand.extractLsb' 8 8 ++ 0#8 := by
    conv_lhs => rw [← hsplit, BitVec.and_append, hhigh, BitVec.and_zero]
  calc operand &&& (0xFF#8 ++ 0#8) = 0
    _ ↔ operand.extractLsb' 8 8 ++ 0#8 = 0#8 ++ 0#8 := by rw [hand]; rfl
    _ ↔ operand.extractLsb' 8 8 = 0#8 := BitVec.append_left_inj _
    _ ↔ operand >>> 8 = 0#16 := by
      simp only [← BitVec.toNat_inj, BitVec.extractLsb'_toNat, BitVec.toNat_ushiftRight, BitVec.toNat_ofNat,
        Nat.shiftRight_eq_div_pow]
      have := operand.isLt
      omega

/-- An operation's own operand has the must-be-zero bits clear. -/
theorem operandBits_and_mask (i : Instr) : operandBits i &&& mustBeZeroMask i = 0 := by
  cases i with
  | rxs x => exact (and_high_eq_zero_iff _).2 ((eq_setWidth_iff _ x).1 rfl).1
  | txw x => exact (and_high_eq_zero_iff _).2 ((eq_setWidth_iff _ x).1 rfl).1
  | _ => rfl

/-- An operand with the must-be-zero bits clear is that of an operation of the same row. -/
theorem exists_operation_of_mask_clear (i : Instr) {operand : BitVec 16} (h : operand &&& mustBeZeroMask i = 0) :
    ∃ j, rowOf j = rowOf i ∧ opCode j = opCode i ∧ operandBits j = operand := by
  cases i with
  | rxs x =>
    have hz := (and_high_eq_zero_iff operand).1 h
    exact ⟨.rxs (operand.setWidth 8), rfl, rfl, (eq_widened_of_high_clear (not_not.2 hz)).symm⟩
  | txw x =>
    have hz := (and_high_eq_zero_iff operand).1 h
    exact ⟨.txw (operand.setWidth 8), rfl, rfl, (eq_widened_of_high_clear (not_not.2 hz)).symm⟩
  | _ =>
    have hz : operand = 0 := (BitVec.and_allOnes (x := operand)).symm.trans h
    exact ⟨_, rfl, rfl, hz.symm⟩

/-- A row is selected exactly by the words of its operations. -/
theorem selects_iff_decode {row : TableRow} (hrow : row ∈ opcodeTable) (w : OpWord) :
    row.selects w = true ↔ ∃ i, decode w = .ok i ∧ rowOf i = row := by
  obtain ⟨i, rfl⟩ := (mem_opcodeTable_iff row).1 hrow
  constructor
  · intro h
    obtain ⟨hop, hmask⟩ := (rowOf_selects_iff i w).1 h
    obtain ⟨j, hj, hopj, hoperand⟩ := exists_operation_of_mask_clear i hmask
    exact ⟨j, (decode_ok_iff w j).2 ⟨hop.trans hopj.symm, hoperand.symm⟩, hj⟩
  · rintro ⟨j, hd, hj⟩
    obtain ⟨hop, hoperand⟩ := (decode_ok_iff w j).1 hd
    rw [← hj, rowOf_selects_iff, hoperand]
    exact ⟨hop, operandBits_and_mask j⟩

/-- Settles O3: a selected row is that of the operation the word decodes to. -/
theorem tableRowsMatchTheDecoder : Obligations.TableRowsMatchTheDecoder := by
  intro w
  refine ⟨⟨?_, ?_⟩, fun row hrow h => ?_, fun row hrow row' hrow' h h' => ?_⟩
  · rintro ⟨row, hrow, h⟩
    obtain ⟨i, hd, -⟩ := (selects_iff_decode hrow w).1 h
    exact ⟨i, hd⟩
  · rintro ⟨i, hd⟩
    have hrow : rowOf i ∈ opcodeTable := (mem_opcodeTable_iff _).2 ⟨i, rfl⟩
    exact ⟨rowOf i, hrow, (selects_iff_decode hrow w).2 ⟨i, hd, rfl⟩⟩
  · obtain ⟨i, hd, hi⟩ := (selects_iff_decode hrow w).1 h
    exact ⟨i, hd, congrArg TableRow.mnemonic hi⟩
  · obtain ⟨i, hd, hi⟩ := (selects_iff_decode hrow w).1 h
    obtain ⟨j, hd', hj⟩ := (selects_iff_decode hrow' w).1 h'
    obtain rfl : i = j := Except.ok.inj (hd.symm.trans hd')
    exact hi.symm.trans hj

end Sys2Proof
end

section

namespace Sys2Proof.Machine

open Safety

/-! `WRITE` and `READ` after `INIT` (R93, R176) -/

theorem exec_txw_of_room {s : State} (b : Byte) (hi : s.initialised = true) (hroom : s.txq.length < s.params.txqCap) :
    exec (.txw b) s = .next { s with txq := s.txq ++ [b], result := some (.accepted true) } :=
  (execTxw_next b s _).2 ⟨hi, by rw [qPush_of_room b hroom]⟩

theorem exec_txw_of_full {s : State} (b : Byte) (hi : s.initialised = true) (hfull : s.params.txqCap ≤ s.txq.length) :
    exec (.txw b) s = .next { s with result := some (.accepted false) } :=
  (execTxw_next b s _).2 ⟨hi, by rw [qPush_of_full b hfull]⟩

theorem exec_rxr_cons {s : State} {b : Byte} {rest : List Byte} (hi : s.initialised = true) (hq : s.rxq = b :: rest) :
    exec .rxr s = .next { s with rxq := rest, result := some (.received true b) } :=
  (execRxr_next s _).2 ⟨hi, .inl ⟨b, rest, hq, rfl⟩⟩

theorem exec_rxr_nil {s : State} (hi : s.initialised = true) (hq : s.rxq = []) :
    exec .rxr s = .next { s with result := some (.received false 0x00) } :=
  (execRxr_next s _).2 ⟨hi, .inr ⟨hq, rfl⟩⟩

theorem writeBytes_cons_of_room {s : State} (b : Byte) (rest : List Byte) (hi : s.initialised = true)
    (hroom : s.txq.length < s.params.txqCap) {k : Nat} {t : State}
    (h : writeBytes rest { s with txq := s.txq ++ [b], result := some (.accepted true) } = .next (k, t)) :
    writeBytes (b :: rest) s = .next (k + 1, t) := by
  simp [writeBytes, exec_txw_of_room b hi hroom, andThen, h]

theorem writeBytes_cons_of_full {s : State} (b : Byte) (rest : List Byte) (hi : s.initialised = true)
    (hfull : s.params.txqCap ≤ s.txq.length) :
    writeBytes (b :: rest) s = .next (0, { s with result := some (.accepted false) }) := by
  simp [writeBytes, exec_txw_of_full b hi hfull, andThen]

/-- Settles O19, by induction on the bytes: each is queued while there is room. -/
theorem writeQueuesWhatFits : Obligations.WriteQueuesWhatFits := by
  intro bytes
  induction bytes with
  | nil => exact fun s _ => ⟨0, s, rfl, by simp, by simp⟩
  | cons b rest ih =>
    intro s hi
    rcases Nat.lt_or_ge s.txq.length s.params.txqCap with hroom | hfull
    · obtain ⟨k, t, hw, hk, ht⟩ := ih { s with txq := s.txq ++ [b], result := some (.accepted true) } hi
      refine ⟨k + 1, t, writeBytes_cons_of_room b rest hi hroom hw, ?_, ?_⟩
      · rw [hk]
        simp only [List.length_append, List.length_cons, List.length_nil]
        omega
      · rw [ht]
        simp [forgetResult]
    · refine ⟨0, _, writeBytes_cons_of_full b rest hi hfull, ?_, ?_⟩
      · omega
      · simp [forgetResult]

/-- Settles O20, by induction on the number of bytes asked for. -/
theorem readDrainsTheReceiveQueue : Obligations.ReadDrainsTheReceiveQueue := by
  intro n
  induction n with
  | zero => exact fun s _ => ⟨s, rfl, rfl⟩
  | succ n ih =>
    intro s hi
    cases hq : s.rxq with
    | nil => exact ⟨_, by rw [readBytes, exec_rxr_nil hi hq]; rfl, by simp [forgetResult, hq]⟩
    | cons b rest =>
      obtain ⟨t, hr, ht⟩ := ih { s with rxq := rest, result := some (.received true b) } hi
      refine ⟨t, ?_, ht⟩
      simp [readBytes, exec_rxr_cons hi hq, andThen, hr]

end Sys2Proof.Machine
end

section

namespace Sys2Proof.Machine

open Safety

/-! The wire format as lists of bits (R89) -/

theorem byteBits_eq_map_bitOf (o : BitOrder) (b : Byte) :
    byteBits o b = (List.range 8).map fun k => bitOf o b (BitVec.ofNat 3 k) := by
  cases o <;> rfl

theorem byteBits_length (o : BitOrder) (b : Byte) : (byteBits o b).length = 8 := by
  simp [byteBits_eq_map_bitOf]

theorem byteBits_ne_nil (o : BitOrder) (b : Byte) : byteBits o b ≠ [] := by
  cases o <;> nofun

theorem byteBits_flag (o : BitOrder) : byteBits o 0x7E = flagBits := by
  cases o <;> rfl

/-- The bits of a byte from a position on begin with the bit at that position (R14). -/
theorem byteBits_drop (o : BitOrder) (b : Byte) (k : BitVec 3) :
    (byteBits o b).drop k.toNat = bitOf o b k :: (byteBits o b).drop (k.toNat + 1) := by
  have hk : k.toNat < (byteBits o b).length := by
    rw [byteBits_length]
    exact k.isLt
  rw [List.drop_eq_getElem_cons hk]
  simp [byteBits_eq_map_bitOf]

theorem flags_of_ne_zero {n : BitVec 14} (h : n ≠ 0) : flags n.toNat = flagBits ++ flags (n - 1).toNat := by
  have hn : n.toNat = (n - 1).toNat + 1 := by bv_omega
  rw [hn, flags]

theorem stuffBits_cons_of_ne_five {run : Nat} (h : run ≠ 5) (b : Bool) (rest : List Bool) :
    stuffBits run (b :: rest) = b :: stuffBits (runAfter run b) rest := by
  simp [stuffBits, h]

/-- After a run of five ones a zero is inserted, and the run starts again (R101). -/
theorem stuffBits_five {bits : List Bool} (h : bits ≠ []) : stuffBits 5 bits = false :: stuffBits 0 bits := by
  cases bits with
  | nil => exact absurd rfl h
  | cons b rest => cases b <;> rfl

theorem runOf_five {bits : List Bool} (h : bits ≠ []) : runOf 5 bits = runOf 0 bits := by
  cases bits with
  | nil => exact absurd rfl h
  | cons b rest => cases b <;> rfl

theorem owedBit_of_ne_five {run : Nat} (h : run ≠ 5) : owedBit run = [] := if_neg h

theorem wireBody_flag (o : BitOrder) (run : Nat) (rest : List Byte) :
    wireBody o run (0x7E :: rest) = owedBit run ++ flagBits ++ wireBody o 0 rest := if_pos rfl

theorem wireBody_byte (o : BitOrder) (run : Nat) {b : Byte} (hb : b ≠ 0x7E) (rest : List Byte) :
    wireBody o run (b :: rest) =
      stuffBits run (byteBits o b) ++ wireBody o (runOf run (byteBits o b)) rest := if_neg hb

/-- A stuff bit owed is sent before the next byte, flag or tail (R89). -/
theorem wireBody_five (o : BitOrder) (q : List Byte) : wireBody o 5 q = false :: wireBody o 0 q := by
  cases q with
  | nil => rfl
  | cons b rest =>
    by_cases hb : b = 0x7E
    · rw [hb, wireBody_flag, wireBody_flag]
      rfl
    · rw [wireBody_byte o 5 hb, wireBody_byte o 0 hb, stuffBits_five (byteBits_ne_nil o b),
        runOf_five (byteBits_ne_nil o b), List.cons_append]

/-! What a transmission still has to send: the rest of the byte, then what the queue, the flags owed and the tail ask
for (R122 to R128) -/

/-- The bits of `tx_byte` that are not sent yet; none between two bytes (R25). -/
def bitsLeft (o : BitOrder) (t : TxGroup) : List Bool :=
  if t.bitIdx = 0 then [] else (byteBits o t.byte).drop t.bitIdx.toNat

/-- What follows the current byte, which leaves a run of `run` ones. -/
def wireAfterByte (c : TxConfig) (d : TxSide) (run : Nat) : List Bool :=
  match d.tx.state with
  | .idle => []
  | .preamble => flags d.tx.flagCtr.toNat ++ (wireBody c.bitOrder run d.txq ++ flags (nFlags c.tail).toNat)
  | .data => wireBody c.bitOrder run d.txq ++ flags (nFlags c.tail).toNat
  | .tail => flags d.tx.flagCtr.toNat

/-- What is sent when `bits` of the current byte are left: they are stuffed unless the byte is a flag (R102, R103). -/
def wireFrom (c : TxConfig) (d : TxSide) (bits : List Bool) : List Bool :=
  if d.tx.nostuff then bits ++ wireAfterByte c d 0
  else stuffBits d.tx.ones.toNat bits ++ wireAfterByte c d (runOf d.tx.ones.toNat bits)

/-- The bits a transmission still has to send. -/
def wireLeft (c : TxConfig) (d : TxSide) : List Bool := wireFrom c d (bitsLeft c.bitOrder d.tx)

theorem wireAfterByte_preamble (c : TxConfig) {d : TxSide} (h : d.tx.state = .preamble) (run : Nat) :
    wireAfterByte c d run =
      flags d.tx.flagCtr.toNat ++ (wireBody c.bitOrder run d.txq ++ flags (nFlags c.tail).toNat) := by
  simp only [wireAfterByte, h]

theorem wireAfterByte_data (c : TxConfig) {d : TxSide} (h : d.tx.state = .data) (run : Nat) :
    wireAfterByte c d run = wireBody c.bitOrder run d.txq ++ flags (nFlags c.tail).toNat := by
  simp only [wireAfterByte, h]

theorem wireAfterByte_tail (c : TxConfig) {d : TxSide} (h : d.tx.state = .tail) (run : Nat) :
    wireAfterByte c d run = flags d.tx.flagCtr.toNat := by
  simp only [wireAfterByte, h]

theorem wireFrom_of_nostuff (c : TxConfig) {d : TxSide} (h : d.tx.nostuff = true) (bits : List Bool) :
    wireFrom c d bits = bits ++ wireAfterByte c d 0 := if_pos h

theorem wireFrom_of_stuffing (c : TxConfig) {d : TxSide} (h : d.tx.nostuff = false) (bits : List Bool) :
    wireFrom c d bits =
      stuffBits d.tx.ones.toNat bits ++ wireAfterByte c d (runOf d.tx.ones.toNat bits) := by
  simp only [wireFrom, h, Bool.false_eq_true, if_false]

theorem bitsLeft_of_boundary {t : TxGroup} (h : t.bitIdx = 0) (o : BitOrder) : bitsLeft o t = [] := if_pos h

theorem bitsLeft_of_insideByte {t : TxGroup} (h : t.bitIdx ≠ 0) (o : BitOrder) :
    bitsLeft o t = (byteBits o t.byte).drop t.bitIdx.toNat := if_neg h

theorem bitsLeft_txDataBit (o : BitOrder) (t : TxGroup) :
    bitsLeft o (txDataBit o t) = (byteBits o t.byte).drop (t.bitIdx.toNat + 1) := by
  by_cases h : (txDataBit o t).bitIdx = 0
  · have h8 : t.bitIdx.toNat + 1 = (byteBits o t.byte).length := by
      rw [txDataBit_bitIdx] at h
      rw [byteBits_length]
      bv_omega
    rw [bitsLeft_of_boundary h, h8, List.drop_length]
  · rw [bitsLeft_of_insideByte h]
    rw [txDataBit_bitIdx] at h ⊢
    have hn : (t.bitIdx + 1).toNat = t.bitIdx.toNat + 1 := by bv_omega
    rw [hn, txDataBit_byte]

/-- With at most four ones sent no stuff bit is owed. -/
theorem toNat_ne_five {n : BitVec 3} (h : n ≤ 4) : n.toNat ≠ 5 := by
  bv_omega

/-- `TxDataBit` counts the run of ones as the wire format does, as long as no stuff bit is owed (R102). -/
theorem txDataBit_ones_toNat {t : TxGroup} (o : BitOrder) (hn : t.nostuff = false) (h4 : t.ones ≤ 4) :
    (txDataBit o t).ones.toNat = runAfter t.ones.toNat (bitOf o t.byte t.bitIdx) := by
  have h5 := toNat_ne_five h4
  have hsucc : (t.ones + 1).toNat = t.ones.toNat + 1 := by bv_omega
  simp only [txDataBit, hn, runAfter, h5, if_false]
  cases bitOf o t.byte t.bitIdx with
  | false => rfl
  | true => exact hsucc

/-- A data bit sends the first bit of what is left (R102). -/
theorem wireFrom_txDataBit (c : TxConfig) {d : TxSide} (h4 : d.tx.ones ≤ 4) :
    wireFrom c d ((byteBits c.bitOrder d.tx.byte).drop d.tx.bitIdx.toNat) =
      (txDataBit c.bitOrder d.tx).curBit :: wireLeft c { d with tx := txDataBit c.bitOrder d.tx } := by
  have hafter (run : Nat) : wireAfterByte c { d with tx := txDataBit c.bitOrder d.tx } run = wireAfterByte c d run :=
    rfl
  have h5 := toNat_ne_five h4
  rw [wireLeft, bitsLeft_txDataBit, byteBits_drop, txDataBit_curBit]
  cases hn : d.tx.nostuff with
  | true =>
    rw [wireFrom_of_nostuff c hn, wireFrom_of_nostuff (d := { d with tx := txDataBit c.bitOrder d.tx }) c hn, hafter,
      List.cons_append]
  | false =>
    rw [wireFrom_of_stuffing c hn, wireFrom_of_stuffing (d := { d with tx := txDataBit c.bitOrder d.tx }) c hn, hafter,
      txDataBit_ones_toNat c.bitOrder hn h4, stuffBits_cons_of_ne_five h5, runOf, List.cons_append]

/-- A stuff bit is sent before the rest (R101). -/
theorem wireLeft_stuffBit (c : TxConfig) {d d' : TxSide} (hd : d.tx.state = .data) (ho : StuffOwed d.tx)
    (h' : d' = { d with tx := { d.tx with curBit := false, ones := 0 } }) : wireLeft c d = false :: wireLeft c d' := by
  obtain ⟨hn, h5⟩ := ho
  have hleft : bitsLeft c.bitOrder d'.tx = bitsLeft c.bitOrder d.tx := by rw [h']; rfl
  have hafter (run : Nat) : wireAfterByte c d' run = wireAfterByte c d run := by rw [h']; rfl
  have hn' : d'.tx.nostuff = false := by rw [h']; exact hn
  have h0 : d'.tx.ones.toNat = 0 := by rw [h']; rfl
  have h5' : d.tx.ones.toNat = 5 := by rw [h5]; rfl
  rw [wireLeft, wireLeft, hleft, wireFrom_of_stuffing c hn, wireFrom_of_stuffing c hn', hafter, h0, h5']
  by_cases hb : bitsLeft c.bitOrder d.tx = []
  · simp only [hb, stuffBits, runOf, wireAfterByte_data c hd, wireBody_five, List.nil_append, List.cons_append]
  · rw [stuffBits_five hb, runOf_five hb, List.cons_append]

/-- Between two bytes only what follows is left. -/
theorem wireLeft_of_boundary (c : TxConfig) {d : TxSide} (hi : d.tx.bitIdx = 0)
    (hz : d.tx.nostuff = true → d.tx.ones = 0) : wireLeft c d = wireAfterByte c d d.tx.ones.toNat := by
  rw [wireLeft, bitsLeft_of_boundary hi]
  cases hn : d.tx.nostuff with
  | true =>
    rw [wireFrom_of_nostuff c hn, hz hn]
    rfl
  | false => exact wireFrom_of_stuffing c hn []

/-- The start of a transmission owes the whole wire format (R89, R122). -/
theorem wireLeft_startTransmission (c : TxConfig) (d : TxSide) :
    wireLeft c { d with tx := startTransmission c d.tx } = wire c d.txq := by
  rw [wireLeft_of_boundary c rfl (by simp [startTransmission]), wireAfterByte_preamble c rfl, ← List.append_assoc]
  rfl

/-- A loaded flag goes out as it is (R103). -/
theorem wireFrom_loadFlag (c : TxConfig) (d : TxSide) :
    wireFrom c { d with tx := loadFlag d.tx } flagBits =
      flagBits ++ wireAfterByte c { d with tx := loadFlag d.tx } 0 := rfl

/-- A loaded queue byte opens the rest of the body (R89, R103). -/
theorem wireFrom_loadQueueByte (c : TxConfig) {t : TxGroup} (hd : t.state = .data) (h4 : t.ones ≤ 4) (b : Byte)
    (rest : List Byte) :
    wireFrom c ⟨loadQueueByte b t, rest⟩ (byteBits c.bitOrder b) =
      wireBody c.bitOrder t.ones.toNat (b :: rest) ++ flags (nFlags c.tail).toNat := by
  have h5 := toNat_ne_five h4
  have hs : (loadQueueByte b t).state = .data := hd
  by_cases hb : b = 0x7E
  · have hn : (loadQueueByte b t).nostuff = true := decide_eq_true hb
    rw [wireFrom_of_nostuff c hn, wireAfterByte_data c hs, hb, wireBody_flag, byteBits_flag, owedBit_of_ne_five h5,
      List.nil_append, List.append_assoc]
  · have hn : (loadQueueByte b t).nostuff = false := decide_eq_false hb
    rw [wireFrom_of_stuffing c hn, wireAfterByte_data c hs, wireBody_byte _ _ hb, List.append_assoc]
    rfl

end Sys2Proof.Machine
end

section

namespace Sys2Proof.Machine

open Safety

/-! A bit step sends the first bit of what is left, or ends the transmission when nothing is left (R123, R128) -/

/-- Between a transmission's bits, with nothing queued any more once the tail has begun. -/
structure Transmitting (d : TxSide) : Prop where
  inv : TxSideInv d
  active : d.tx.state ≠ .idle
  tailLast : d.tx.state = .tail → d.txq = []

/-- What a bit step does to the bits left. -/
inductive WireStep (c : TxConfig) (bits : List Bool) (q : List Byte) (d' : TxSide) : Prop where
  | bit : bits = d'.tx.curBit :: wireLeft c d' → Transmitting d' → WireStep c bits q d'
  | ends (t : TxGroup) : bits = [] → q = [] → d' = ⟨goIdle t, []⟩ → WireStep c bits q d'

theorem wireAfterByte_loadFlag (c : TxConfig) {d : TxSide} (hs : d.tx.state = .preamble ∨ d.tx.state = .tail)
    (hc : d.tx.flagCtr ≠ 0) :
    wireAfterByte c d 0 = wireFrom c { d with tx := loadFlag d.tx } flagBits := by
  have hctr : (loadFlag d.tx).flagCtr = d.tx.flagCtr - 1 := rfl
  rw [wireFrom_loadFlag]
  rcases hs with hs | hs
  · rw [wireAfterByte_preamble c hs, wireAfterByte_preamble c (d := { d with tx := loadFlag d.tx }) hs, hctr,
      flags_of_ne_zero hc, List.append_assoc]
  · rw [wireAfterByte_tail c hs, wireAfterByte_tail c (d := { d with tx := loadFlag d.tx }) hs, hctr,
      flags_of_ne_zero hc]

/-- What is left at a byte boundary is what is sent from the loaded byte on. -/
theorem BoundaryStep.wire_of_loaded {c : TxConfig} {d d' : TxSide} (h : BitDue d)
    (hpre : d.tx.state = .preamble → d.tx.ones = 0) (hb : BoundaryStep c d (.loaded d')) :
    wireAfterByte c d d.tx.ones.toNat = wireFrom c d' (byteBits c.bitOrder d'.tx.byte) := by
  have h5 := toNat_ne_five h.ones
  cases hb with
  | preambleFlag hs hc =>
    rw [hpre hs]
    exact (wireAfterByte_loadFlag c (.inl hs) hc).trans (by rw [← byteBits_flag c.bitOrder]; rfl)
  | preambleEnds b rest hs hc hq =>
    rw [wireAfterByte_preamble c hs, hc, hq]
    exact (wireFrom_loadQueueByte c (t := { d.tx with state := .data }) rfl h.ones b rest).symm
  | dataByte b rest hs hq =>
    rw [wireAfterByte_data c hs, hq]
    exact (wireFrom_loadQueueByte c hs h.ones b rest).symm
  | tailStarts hs hq hn =>
    rw [wireAfterByte_data c hs, hq, wireBody, owedBit_of_ne_five h5]
    exact (wireAfterByte_loadFlag c (d := ⟨{ d.tx with state := .tail, flagCtr := nFlags c.tail }, []⟩) (.inr rfl)
      hn).trans (by rw [← byteBits_flag c.bitOrder]; rfl)
  | tailFlag hs hc =>
    rw [wireAfterByte_tail c hs, ← wireAfterByte_tail c hs 0]
    exact (wireAfterByte_loadFlag c (.inr hs) hc).trans (by rw [← byteBits_flag c.bitOrder]; rfl)

/-- At a byte boundary the serializer goes idle only when nothing is left. -/
theorem BoundaryStep.wire_of_wentIdle {c : TxConfig} {d d' : TxSide} (h : BitDue d)
    (ht : d.tx.state = .tail → d.txq = []) (hb : BoundaryStep c d (.wentIdle d')) :
    wireAfterByte c d d.tx.ones.toNat = [] ∧ d.txq = [] ∧ ∃ t, d' = ⟨goIdle t, []⟩ := by
  cases hb with
  | dataEnds hs hq hn =>
    have h5 := toNat_ne_five h.ones
    refine ⟨?_, hq, _, rfl⟩
    rw [wireAfterByte_data c hs, hq, hn, wireBody, owedBit_of_ne_five h5]
    rfl
  | tailEnds hs hc =>
    refine ⟨?_, ht hs, d.tx, by rw [ht hs]⟩
    rw [wireAfterByte_tail c hs, hc]
    rfl

theorem BoundaryStep.loaded_frame {c : TxConfig} {d d' : TxSide} (hi : d.tx.bitIdx = 0)
    (ht : d.tx.state = .tail → d.txq = []) (hb : BoundaryStep c d (.loaded d')) :
    d'.tx.bitIdx = 0 ∧ (d'.tx.state = .tail → d'.txq = []) := by
  cases hb with
  | preambleFlag _ _ => exact ⟨hi, ht⟩
  | preambleEnds b rest _ _ _ => exact ⟨hi, nofun⟩
  | dataByte b rest hs _ => exact ⟨hi, by simp [loadQueueByte, hs]⟩
  | tailStarts _ _ _ => exact ⟨hi, fun _ => rfl⟩
  | tailFlag _ _ => exact ⟨hi, ht⟩

theorem BitDue.wireStep_of_boundary {d : TxSide} (h : BitDue d) (c : TxConfig) (hi : d.tx.bitIdx = 0)
    (hz : d.tx.nostuff = true → d.tx.ones = 0) (hpre : d.tx.state = .preamble → d.tx.ones = 0)
    (ht : d.tx.state = .tail → d.txq = []) : WireStep c (wireLeft c d) d.txq (nextBitActive c d) := by
  have hno : ¬ StuffOwed d.tx := fun ⟨_, h5⟩ => by simpa [h5] using h.ones
  have hb := h.boundaryStep c
  have hinv := hb.txSideInv h c.bitOrder
  rw [nextBitActive_of_boundary c hno hi, wireLeft_of_boundary c hi hz]
  cases hr : byteBoundary c d with
  | loaded d' =>
    rw [hr] at hb hinv
    obtain ⟨hi', ht'⟩ := hb.loaded_frame hi ht
    have hl := hb.byteLoaded h
    have hw := wireFrom_txDataBit c hl.ones
    rw [hi'] at hw
    exact .bit ((hb.wire_of_loaded h hpre).trans hw) ⟨hinv, hl.active, ht'⟩
  | wentIdle d' =>
    rw [hr] at hb
    obtain ⟨hw, hq, t, hd⟩ := hb.wire_of_wentIdle h ht
    exact .ends t hw hq hd

theorem Transmitting.wireStep {d : TxSide} (h : Transmitting d) (c : TxConfig) (hsc : d.tx.sampleCtr = 0) :
    WireStep c (wireLeft c d) d.txq (txNextBit c d) := by
  obtain ⟨⟨-, -, -, hflag, hpt, -⟩, -⟩ := h.inv
  obtain ⟨hinv, hact, ht⟩ := h
  have hinv' := hinv.after_txNextBit c hsc
  have hpre : d.tx.state = .preamble → d.tx.ones = 0 := fun hs => (hflag (hpt (.inl hs))).2
  rcases txNextBit_cases c d with ⟨hs, _⟩ | ⟨hs, _⟩ | ⟨_, he⟩
  · exact absurd hs hact
  · exact absurd hs hact
  rw [he] at hinv' ⊢
  rcases nextBitActive_cases c d with ⟨hn, h5, hb⟩ | ⟨hno, hidx, hb⟩ | ⟨hno, hidx, _⟩
  · rw [hb] at hinv' ⊢
    have hdata : d.tx.state = .data := by
      cases hs : d.tx.state with
      | idle => exact absurd hs hact
      | preamble => simp [hpt (.inl hs)] at hn
      | data => rfl
      | tail => simp [hpt (.inr hs)] at hn
    exact .bit (wireLeft_stuffBit c hdata ⟨hn, h5⟩ rfl) ⟨hinv', hact, ht⟩
  · rw [hb] at hinv' ⊢
    have hw := wireFrom_txDataBit c (hinv.byteLoaded hsc hact hno).ones
    rw [← bitsLeft_of_insideByte hidx] at hw
    exact .bit hw ⟨hinv', hact, ht⟩
  · exact (hinv.byteLoaded hsc hact hno).toBitDue.wireStep_of_boundary c hidx (fun hn => (hflag hn).2) hpre ht

/-- The first bit step of a transmission (R122). -/
theorem wireStep_of_start (c : TxConfig) {d : TxSide} (hs : d.tx.state = .idle) (hsc : d.tx.sampleCtr = 0)
    (hq : d.txq ≠ []) : WireStep c (wire c d.txq) d.txq (txNextBit c d) := by
  rcases txNextBit_cases c d with ⟨_, hq', _⟩ | ⟨_, _, he⟩ | ⟨hact, _⟩
  · exact absurd hq' hq
  · rw [he, ← wireLeft_startTransmission]
    exact (bitDue_startTransmission c hsc hq).wireStep_of_boundary c rfl (by simp [startTransmission])
      (fun _ => rfl) (by simp [startTransmission])
  · exact absurd hs hact

/-- The next bit step is one of a transmission that has `bits` left to send: it has begun, or begins with this step. -/
inductive WireDue (c : TxConfig) (d : TxSide) : List Bool → Prop where
  | begun : Transmitting d → WireDue c d (wireLeft c d)
  | starts : d.tx.state = .idle → d.txq ≠ [] → WireDue c d (wire c d.txq)

theorem WireDue.wireStep {c : TxConfig} {d : TxSide} {bits : List Bool} (h : WireDue c d bits)
    (hsc : d.tx.sampleCtr = 0) : WireStep c bits d.txq (txNextBit c d) := by
  cases h with
  | begun ht => exact ht.wireStep c hsc
  | starts hs hq => exact wireStep_of_start c hs hsc hq

theorem WireDue.of_cons {c : TxConfig} {d : TxSide} {b : Bool} {bits : List Bool} (h : WireDue c d (b :: bits))
    (hsc : d.tx.sampleCtr = 0) :
    (txNextBit c d).tx.curBit = b ∧ wireLeft c (txNextBit c d) = bits ∧ Transmitting (txNextBit c d) := by
  cases h.wireStep hsc with
  | bit hw ht =>
    obtain ⟨hb, hl⟩ := List.cons.inj hw
    exact ⟨hb.symm, hl.symm, ht⟩
  | ends t hw => cases hw

theorem WireDue.of_nil {c : TxConfig} {d : TxSide} (h : WireDue c d []) (hsc : d.tx.sampleCtr = 0) :
    d.txq = [] ∧ ∃ t, txNextBit c d = ⟨goIdle t, []⟩ := by
  cases h.wireStep hsc with
  | bit hw => cases hw
  | ends t _ hq hd => exact ⟨hq, t, hd⟩

theorem Transmitting.sending {d : TxSide} (h : Transmitting d) : d.tx.sending = true := by
  obtain ⟨⟨⟨-, hsend, -⟩, -⟩, hact, -⟩ := h
  exact hsend.2 hact

theorem txNextBit_sampleCtr (c : TxConfig) (d : TxSide) : (txNextBit c d).tx.sampleCtr = d.tx.sampleCtr :=
  (txNextBit_frame c d).2.1

/-- `k` bit steps of a transmission send the first `k` bits left (R89). -/
theorem WireDue.bitSteps_take {c : TxConfig} (k : Nat) {d : TxSide} {bits : List Bool} (h : WireDue c d bits)
    (hsc : d.tx.sampleCtr = 0) (hk : k ≤ bits.length) :
    (bitSteps c k d).1 = bits.take k ∧ WireDue c (bitSteps c k d).2 (bits.drop k) ∧
    (bitSteps c k d).2.tx.sampleCtr = 0 ∧ (1 ≤ k → Transmitting (bitSteps c k d).2) := by
  induction k generalizing d bits with
  | zero => exact ⟨rfl, h, hsc, nofun⟩
  | succ k ih =>
    cases bits with
    | nil => simp at hk
    | cons b rest =>
      obtain ⟨hb, rfl, ht⟩ := h.of_cons hsc
      have hsc' := (txNextBit_sampleCtr c d).trans hsc
      obtain ⟨hbits, hdue, hctr, htr⟩ := ih (.begun ht) hsc' (Nat.le_of_succ_le_succ hk)
      refine ⟨congrArg₂ List.cons hb hbits, hdue, hctr, fun _ => ?_⟩
      cases k with
      | zero => exact ht
      | succ k => exact htr (by omega)

theorem bitSteps_succ_last (c : TxConfig) (n : Nat) (d : TxSide) :
    (bitSteps c (n + 1) d).2 = txNextBit c (bitSteps c n d).2 := by
  induction n generalizing d with
  | zero => rfl
  | succ n ih => exact ih (txNextBit c d)

/-! A bit step does not read the sample counter (R120, R123) -/

/-- The transmit side with another sample counter. -/
def TxSide.withSampleCtr (d : TxSide) (n : BitVec 3) : TxSide := { d with tx := { d.tx with sampleCtr := n } }

def Boundary.withSampleCtr : Boundary → BitVec 3 → Boundary
  | .loaded d, n => .loaded (d.withSampleCtr n)
  | .wentIdle d, n => .wentIdle (d.withSampleCtr n)

theorem tailBoundary_withSampleCtr (d : TxSide) (n : BitVec 3) :
    tailBoundary (d.withSampleCtr n) = (tailBoundary d).withSampleCtr n := by
  have hc : (d.withSampleCtr n).tx.flagCtr = d.tx.flagCtr := rfl
  unfold tailBoundary
  rw [hc]
  split <;> rfl

theorem dataBoundary_withSampleCtr (c : TxConfig) (d : TxSide) (n : BitVec 3) :
    dataBoundary c (d.withSampleCtr n) = (dataBoundary c d).withSampleCtr n := by
  obtain ⟨t, q⟩ := d
  cases q with
  | nil => exact tailBoundary_withSampleCtr ⟨{ t with state := .tail, flagCtr := nFlags c.tail }, []⟩ n
  | cons b rest => rfl

theorem byteBoundary_withSampleCtr (c : TxConfig) (d : TxSide) (n : BitVec 3) :
    byteBoundary c (d.withSampleCtr n) = (byteBoundary c d).withSampleCtr n := by
  have hs : (d.withSampleCtr n).tx.state = d.tx.state := rfl
  unfold byteBoundary
  rw [hs]
  cases d.tx.state with
  | idle => rfl
  | data => exact dataBoundary_withSampleCtr c d n
  | tail => exact tailBoundary_withSampleCtr d n
  | preamble =>
    have hd := dataBoundary_withSampleCtr c { d with tx := { d.tx with state := .data } } n
    have hc : (d.withSampleCtr n).tx.flagCtr = d.tx.flagCtr := rfl
    dsimp only
    rw [hc]
    split
    · rfl
    · exact hd

theorem nextBitActive_of_stuffOwed (c : TxConfig) {d : TxSide} (ho : StuffOwed d.tx) :
    nextBitActive c d = { d with tx := { d.tx with curBit := false, ones := 0 } } := by
  rcases nextBitActive_cases c d with ⟨_, _, h⟩ | ⟨hno, _⟩ | ⟨hno, _⟩
  · exact h
  · exact absurd ho hno
  · exact absurd ho hno

theorem nextBitActive_of_insideByte (c : TxConfig) {d : TxSide} (hno : ¬ StuffOwed d.tx) (hi : d.tx.bitIdx ≠ 0) :
    nextBitActive c d = { d with tx := txDataBit c.bitOrder d.tx } := by
  rcases nextBitActive_cases c d with ⟨hn, h5, _⟩ | ⟨_, _, h⟩ | ⟨_, h0, _⟩
  · exact absurd ⟨hn, h5⟩ hno
  · exact h
  · exact absurd h0 hi

theorem nextBitActive_withSampleCtr (c : TxConfig) (d : TxSide) (n : BitVec 3) :
    nextBitActive c (d.withSampleCtr n) = (nextBitActive c d).withSampleCtr n := by
  have hb := byteBoundary_withSampleCtr c d n
  by_cases ho : StuffOwed d.tx
  · rw [nextBitActive_of_stuffOwed c ho, nextBitActive_of_stuffOwed c (d := d.withSampleCtr n) ho]
    rfl
  by_cases hi : d.tx.bitIdx = 0
  · rw [nextBitActive_of_boundary c ho hi, nextBitActive_of_boundary c (d := d.withSampleCtr n) ho hi, hb]
    cases byteBoundary c d <;> rfl
  · rw [nextBitActive_of_insideByte c ho hi, nextBitActive_of_insideByte c (d := d.withSampleCtr n) ho hi]
    rfl

theorem txNextBit_withSampleCtr (c : TxConfig) (d : TxSide) (n : BitVec 3) :
    txNextBit c (d.withSampleCtr n) = (txNextBit c d).withSampleCtr n := by
  unfold txNextBit
  simp only [apply_ite (TxSide.withSampleCtr · n)]
  have hs : (d.withSampleCtr n).tx.state = d.tx.state := rfl
  rw [← nextBitActive_withSampleCtr, ← nextBitActive_withSampleCtr]
  rfl

theorem bitSteps_withSampleCtr (c : TxConfig) (k : Nat) (d : TxSide) (n : BitVec 3) :
    bitSteps c k (d.withSampleCtr n) = ((bitSteps c k d).1, (bitSteps c k d).2.withSampleCtr n) := by
  induction k generalizing d with
  | zero => rfl
  | succ k ih =>
    simp only [bitSteps, txNextBit_withSampleCtr, ih]
    rfl

/-- Settles O35: from the start of the transmission each bit step sends the first bit left; the counter, which the
statement leaves open, is set to 0. -/
theorem transmissionFollowsTheWireFormat : Obligations.TransmissionFollowsTheWireFormat := by
  intro c d hs hq
  have hdue : WireDue c (d.withSampleCtr 0) (wire c d.txq) := .starts hs hq
  have hrun (k : Nat) := bitSteps_withSampleCtr c k d 0
  have htake (k : Nat) (hk : k ≤ (wire c d.txq).length) := hdue.bitSteps_take k rfl hk
  simp only [hrun] at htake
  obtain ⟨hbits, hend, -, -⟩ := htake _ le_rfl
  rw [List.drop_length] at hend
  obtain ⟨-, t, ht⟩ := hend.of_nil rfl
  rw [txNextBit_withSampleCtr, ← bitSteps_succ_last] at ht
  refine ⟨hbits.trans (List.take_length ..), fun k h1 hk => ?_, ?_⟩
  · obtain ⟨-, -, -, htr⟩ := htake k hk
    exact (htr h1).sending
  · generalize (bitSteps c ((wire c d.txq).length + 1) d).2 = e at ht ⊢
    exact ⟨congrArg (·.tx.state) ht, congrArg (·.tx.sending) ht, congrArg (·.tx.curBit) ht, congrArg (·.txq) ht⟩

end Sys2Proof.Machine
end

section

namespace Sys2Proof.Machine

open Safety

/-! The samples of a transmission (R120, R129, R130) -/

/-- The next `TXS` are those of a transmission that has `bits` left, one entry a sample: a bit step is due, or the
current bit has samples left before the next one. -/
inductive SamplesDue (c : TxConfig) (d : TxSide) : List Bool → Prop where
  | bitStep (bits : List Bool) : d.tx.sampleCtr = 0 → WireDue c d bits → SamplesDue c d (perSample bits)
  | insideBit : d.tx.sampleCtr ≠ 0 → Transmitting d →
      SamplesDue c d (List.replicate (8 - d.tx.sampleCtr.toNat) d.tx.curBit ++ perSample (wireLeft c d))

theorem perSample_cons (b : Bool) (bits : List Bool) :
    perSample (b :: bits) = b :: (List.replicate 7 b ++ perSample bits) := rfl

theorem perSample_length (bits : List Bool) : (perSample bits).length = 8 * bits.length := by
  simp [perSample, Nat.mul_comm]

theorem Transmitting.after_sampleOut {d : TxSide} (h : Transmitting d) : Transmitting (sampleOut d) :=
  ⟨h.inv.after_sampleOut, h.active, h.tailLast⟩

/-- Outside idle the sample counter counts modulo 8 (R129). -/
theorem sampleOut_sampleCtr {d : TxSide} (h : d.tx.state ≠ .idle) :
    (sampleOut d).tx.sampleCtr = d.tx.sampleCtr + 1 := if_neg h

/-- After a sample of the current bit the rest of that bit's samples is due. -/
theorem Transmitting.samplesDue_sampleOut {d : TxSide} (h : Transmitting d) (c : TxConfig) :
    SamplesDue c (sampleOut d)
      (List.replicate (7 - d.tx.sampleCtr.toNat) d.tx.curBit ++ perSample (wireLeft c d)) := by
  have hctr := sampleOut_sampleCtr h.active
  by_cases h7 : (sampleOut d).tx.sampleCtr = 0
  · have h0 : 7 - d.tx.sampleCtr.toNat = 0 := by
      rw [hctr] at h7
      bv_omega
    rw [h0]
    exact .bitStep _ h7 (.begun h.after_sampleOut)
  · have h8 : 7 - d.tx.sampleCtr.toNat = 8 - (sampleOut d).tx.sampleCtr.toNat := by
      rw [hctr] at h7 ⊢
      bv_omega
    rw [h8]
    exact .insideBit h7 h.after_sampleOut

/-- The phase after one sample of a bit (R130). -/
def nextPhase (phase : BitVec 16) (b : Bool) : BitVec 16 := phase + if b then 8192 else 15019

theorem txSideStep_sample_of_bitStep (c : TxConfig) {d : TxSide} (h : d.tx.sampleCtr = 0) :
    (txSideStep c d).2 = (ncoStep (txNextBit c d).tx).2 := by
  simp [txSideStep, h]

theorem txSideStep_sample_of_insideBit (c : TxConfig) {d : TxSide} (h : d.tx.sampleCtr ≠ 0) :
    (txSideStep c d).2 = (ncoStep d.tx).2 := by
  have h' : ¬ d.tx.sampleCtr = 0#3 := h
  simp [txSideStep, h']

/-- The NCO's sample: the table at the new phase (R62, R130). -/
theorem ncoStep_sample (t : TxGroup) :
    (ncoStep t).2 = sineTable.getD (nextPhase t.phase t.curBit >>> 8).toNat 0 := by
  have h : (ncoStep t).2 = sineTable.getD (romIndex (nextPhase t.phase t.curBit)).toNat 0 := rfl
  rw [h, romIndex_toNat]

theorem sampleOut_phase (d : TxSide) : (sampleOut d).tx.phase = nextPhase d.tx.phase d.tx.curBit := rfl

theorem toneSamples_cons (phase : BitVec 16) (b : Bool) (bits : List Bool) :
    toneSamples phase (b :: bits) =
      sineTable.getD (nextPhase phase b >>> 8).toNat 0 :: toneSamples (nextPhase phase b) bits := rfl

theorem tonePhase_cons (phase : BitVec 16) (b : Bool) (bits : List Bool) :
    tonePhase phase (b :: bits) = tonePhase (nextPhase phase b) bits := rfl

/-- One `TXS` of a transmission sounds the next sample's tone in continuous phase. -/
theorem SamplesDue.txSideStep_cons {c : TxConfig} {d : TxSide} {b : Bool} {bits : List Bool}
    (h : SamplesDue c d (b :: bits)) :
    SamplesDue c (txSideStep c d).1 bits ∧ Transmitting (txSideStep c d).1 ∧
    (txSideStep c d).1.tx.phase = nextPhase d.tx.phase b ∧
    (txSideStep c d).2 = sineTable.getD (nextPhase d.tx.phase b >>> 8).toNat 0 := by
  generalize hl : b :: bits = left at h
  cases h with
  | bitStep wireBits hsc hdue =>
    cases wireBits with
    | nil => cases hl
    | cons b' rest =>
      rw [perSample_cons] at hl
      obtain ⟨rfl, rfl⟩ := List.cons.inj hl
      obtain ⟨hb, rfl, ht⟩ := hdue.of_cons hsc
      obtain ⟨hphase, hctr, -⟩ := txNextBit_frame c d
      have hs := ht.samplesDue_sampleOut c
      rw [hctr, hsc, hb] at hs
      rw [txSideStep_of_bitStep c hsc, txSideStep_sample_of_bitStep c hsc, ncoStep_sample, sampleOut_phase, hphase, hb]
      exact ⟨hs, ht.after_sampleOut, rfl, rfl⟩
  | insideBit hsc ht =>
    have h8 : 8 - d.tx.sampleCtr.toNat = 7 - d.tx.sampleCtr.toNat + 1 := by bv_omega
    rw [h8, List.replicate_succ, List.cons_append] at hl
    obtain ⟨rfl, rfl⟩ := List.cons.inj hl
    rw [txSideStep_of_insideBit c hsc, txSideStep_sample_of_insideBit c hsc, ncoStep_sample, sampleOut_phase]
    exact ⟨ht.samplesDue_sampleOut c, ht.after_sampleOut, rfl, rfl⟩

/-- With no sample left the queue is empty and the next `TXS` goes idle (R128). -/
theorem SamplesDue.of_nil {c : TxConfig} {d : TxSide} (h : SamplesDue c d []) :
    d.txq = [] ∧ (txSideStep c d).1.tx.sending = false ∧ (txSideStep c d).1.tx.state = .idle := by
  generalize hl : [] = left at h
  cases h with
  | bitStep wireBits hsc hdue =>
    cases wireBits with
    | nil =>
      obtain ⟨hq, t, ht⟩ := hdue.of_nil hsc
      rw [txSideStep_of_bitStep c hsc, ht]
      exact ⟨hq, rfl, rfl⟩
    | cons b rest => cases hl
  | insideBit hsc ht =>
    have h8 : 8 - d.tx.sampleCtr.toNat = 7 - d.tx.sampleCtr.toNat + 1 := by bv_omega
    rw [h8] at hl
    cases hl

/-- `k` times `TXS` on the transmit side: the samples, in time order, and the side afterwards. -/
def sampleSteps (c : TxConfig) : Nat → TxSide → List Byte × TxSide
  | 0, d => ([], d)
  | k + 1, d =>
    let r := sampleSteps c k (txSideStep c d).1
    ((txSideStep c d).2 :: r.1, r.2)

theorem sampleRun_succ {s t u : State} {v : Byte} {samples : List Byte} {k : Nat} (ht : exec .txs s = .next t)
    (hv : t.result = some (.sample v)) (hrun : sampleRun k t = .next (samples, u)) :
    sampleRun (k + 1) s = .next (v :: samples, u) := by
  have hlast : lastSample t = v := by simp only [lastSample, hv]
  simp only [sampleRun, ht, andThen, hrun, hlast]

/-- A run of `TXS` changes nothing but the transmit side and the result (R52, R120). -/
theorem sampleRun_eq_sampleSteps (k : Nat) {s : State} (hi : s.initialised = true) :
    ∃ r, sampleRun k s = .next ((sampleSteps s.txConfig k s.txSide).1,
      { s.withTxSide (sampleSteps s.txConfig k s.txSide).2 with result := r }) := by
  induction k generalizing s with
  | zero => exact ⟨s.result, rfl⟩
  | succ k ih =>
    have ht := (execTxs_next s _).2 ⟨hi, rfl⟩
    obtain ⟨r, hrun⟩ := ih (s := { s.withTxSide (txSideStep s.txConfig s.txSide).1 with
      result := some (.sample (txSideStep s.txConfig s.txSide).2) }) hi
    generalize hstep : txSideStep s.txConfig s.txSide = step at ht hrun
    simp only [sampleSteps, hstep]
    exact ⟨r, sampleRun_succ ht rfl hrun⟩

/-- `k` times `TXS` of a transmission are the first `k` of the samples due, in continuous phase. -/
theorem SamplesDue.sampleSteps_take {c : TxConfig} (k : Nat) {d : TxSide} {bits : List Bool} (h : SamplesDue c d bits)
    (hk : k ≤ bits.length) :
    (sampleSteps c k d).1 = toneSamples d.tx.phase (bits.take k) ∧
    (sampleSteps c k d).2.tx.phase = tonePhase d.tx.phase (bits.take k) ∧
    SamplesDue c (sampleSteps c k d).2 (bits.drop k) ∧ (1 ≤ k → Transmitting (sampleSteps c k d).2) := by
  induction k generalizing d bits with
  | zero => exact ⟨rfl, rfl, h, nofun⟩
  | succ k ih =>
    cases bits with
    | nil => simp at hk
    | cons b rest =>
      obtain ⟨hdue, ht, hphase, hsample⟩ := h.txSideStep_cons
      obtain ⟨hsamples, hphase', hdue', ht'⟩ := ih hdue (Nat.le_of_succ_le_succ hk)
      rw [hphase] at hsamples hphase'
      refine ⟨congrArg₂ List.cons hsample hsamples, hphase', hdue', fun _ => ?_⟩
      cases k with
      | zero => exact ht
      | succ k => exact ht' (by omega)

theorem SamplesDue.txs_goes_idle {s : State} (hi : s.initialised = true) (h : SamplesDue s.txConfig s.txSide []) :
    ∃ u, exec .txs s = .next u ∧ u.tx.sending = false ∧ u.tx.state = .idle := by
  obtain ⟨-, hsend, hidle⟩ := h.of_nil
  exact ⟨_, execTxs_of_txSide_eq hi rfl rfl, hsend, hidle⟩

/-- Settles O36: the samples due at the start are eight of each bit of the wire format. -/
theorem transmissionIsEightSamplesOfEachBit : Obligations.TransmissionIsEightSamplesOfEachBit := by
  intro s hi hs hsc hq
  have hdue : SamplesDue s.txConfig s.txSide (perSample (wire s.txConfig s.txq)) := .bitStep _ hsc (.starts hs hq)
  rw [← perSample_length]
  refine ⟨?_, fun k h1 hk => ?_⟩
  · obtain ⟨hsamples, hphase, hend, -⟩ := hdue.sampleSteps_take _ le_rfl
    obtain ⟨r, hrun⟩ := sampleRun_eq_sampleSteps (perSample (wire s.txConfig s.txq)).length hi
    rw [List.take_length] at hsamples hphase
    rw [List.drop_length] at hend
    rw [hsamples] at hrun
    obtain ⟨hq', -, -⟩ := hend.of_nil
    generalize (sampleSteps s.txConfig (perSample (wire s.txConfig s.txq)).length s.txSide).2 = d
      at hrun hphase hend hq'
    exact ⟨_, hrun, hphase, hq', rfl, rfl, rfl,
      SamplesDue.txs_goes_idle (s := { s.withTxSide d with result := r }) hi hend⟩
  · obtain ⟨-, -, -, ht⟩ := hdue.sampleSteps_take k hk
    obtain ⟨r, hrun⟩ := sampleRun_eq_sampleSteps k hi
    exact ⟨_, _, hrun, (ht h1).sending⟩

end Sys2Proof.Machine
end

section

namespace Sys2Proof.Machine

open Safety

/-! The receiver fed with bits (R105 to R114) -/

theorem feed_append (p : Params) (xs ys : List Bool) (r : RxSide) :
    feed p (xs ++ ys) r = feed p ys (feed p xs r) := by
  induction xs generalizing r with
  | nil => rfl
  | cons b rest ih => exact ih (hdlcRxBit p b r)

/-- The ones counter counts every bit, kept or not (R106). -/
theorem hdlcRxBit_ones (p : Params) (b : Bool) (r : RxSide) :
    (hdlcRxBit p b r).rx.ones = if b then countOne r.rx.ones else 0 := by
  rcases hdlcRxBit_cases p b r with ⟨hb, h7, he⟩ | ⟨hb, _, he⟩ | ⟨hb, _, he⟩ | ⟨hb, _, he⟩ | ⟨hb, _, _, he⟩ <;>
    rw [he, hb]
  · exact h7.symm
  · rfl
  · rfl
  · exact keepBit_ones ..
  · exact keepBit_ones ..

theorem hdlcRxBit_flagEnd (p : Params) {r : RxSide} (h : r.rx.ones = 6) :
    hdlcRxBit p false r = { r with rx := { r.rx with ones := 0, sync := true, bitCnt := 0 } } := by
  rcases hdlcRxBit_cases p false r with ⟨hb, _⟩ | ⟨_, _, he⟩ | ⟨_, h5, _⟩ | ⟨hb, _⟩ | ⟨_, _, h6, _⟩
  · cases hb
  · exact he
  · simp [h] at h5
  · cases hb
  · exact absurd h h6

/-! A flag (R107, R108, R114) -/

/-- At most `k` bits are counted since the last byte boundary, if any are counted. -/
def CountedAtMost (k : Nat) (r : RxSide) : Prop := r.rx.sync = true → r.rx.bitCnt.toNat ≤ k

theorem keepBit_within_byte {k : Nat} (hk : k < 7) (p : Params) (b : Bool) {r : RxSide} (h : CountedAtMost k r) :
    CountedAtMost (k + 1) (keepBit p b r) ∧ (keepBit p b r).rxq = r.rxq ∧ (keepBit p b r).status = r.status := by
  rcases keepBit_cases p b r with ⟨hs, he⟩ | ⟨hs, h7, he⟩ | ⟨hs, h7, _⟩
  · rw [he]
    exact ⟨by simp [CountedAtMost, hs], rfl, rfl⟩
  · rw [he]
    have hc := h hs
    refine ⟨fun _ => ?_, rfl, rfl⟩
    show (r.rx.bitCnt + 1).toNat ≤ k + 1
    bv_omega
  · have hc := h hs
    rw [h7] at hc
    simp at hc
    omega

/-- Fewer than eight bits since the last boundary complete no byte (R111). -/
theorem hdlcRxBit_within_byte {k : Nat} (hk : k < 7) (p : Params) (b : Bool) {r : RxSide} (h : CountedAtMost k r) :
    CountedAtMost (k + 1) (hdlcRxBit p b r) ∧ (hdlcRxBit p b r).rxq = r.rxq ∧
    (hdlcRxBit p b r).status = r.status := by
  rcases hdlcRxBit_cases p b r with ⟨_, _, he⟩ | ⟨_, _, he⟩ | ⟨_, _, he⟩ | ⟨_, _, he⟩ | ⟨_, _, _, he⟩ <;> rw [he]
  · exact ⟨nofun, rfl, rfl⟩
  · exact ⟨fun _ => Nat.zero_le _, rfl, rfl⟩
  · exact ⟨fun hs => Nat.le_succ_of_le (h hs), rfl, rfl⟩
  · exact keepBit_within_byte hk p true (r := { r with rx := _ }) h
  · exact keepBit_within_byte hk p false (r := { r with rx := _ }) h

theorem feed_within_byte (p : Params) (bits : List Bool) {k : Nat} (hk : k + bits.length ≤ 7) {r : RxSide}
    (h : CountedAtMost k r) : (feed p bits r).rxq = r.rxq ∧ (feed p bits r).status = r.status := by
  induction bits generalizing k r with
  | nil => exact ⟨rfl, rfl⟩
  | cons b rest ih =>
    simp only [List.length_cons] at hk
    obtain ⟨hc, hq, hs⟩ := hdlcRxBit_within_byte (by omega) p b h
    obtain ⟨hq', hs'⟩ := ih (by omega) hc
    exact ⟨hq'.trans hq, hs'.trans hs⟩

/-- The bits of a flag before the one that closes it. -/
def flagOpening : List Bool := [false, true, true, true, true, true, true]

theorem feed_flagOpening_ones (p : Params) (r : RxSide) : (feed p flagOpening r).rx.ones = 6 := by
  simp only [flagOpening, feed, hdlcRxBit_ones, Bool.false_eq_true, if_false, if_true]
  decide

theorem feed_flagBits (p : Params) (r : RxSide) :
    feed p flagBits r = hdlcRxBit p false (feed p flagOpening r) := feed_append p flagOpening [false] r

/-- The receiver is at a byte boundary after a run of `run` ones, in which no flag or abort can be under way. -/
structure AtBoundary (run : Nat) (r : RxSide) : Prop where
  sync : r.rx.sync = true
  bitCnt : r.rx.bitCnt = 0
  ones : r.rx.ones.toNat = run
  run_le : run ≤ 5

/-- A flag aligns a receiver in any state (R108). -/
theorem atBoundary_feed_flag (p : Params) (r : RxSide) : AtBoundary 0 (feed p flagBits r) := by
  rw [feed_flagBits, hdlcRxBit_flagEnd p (feed_flagOpening_ones p r)]
  exact ⟨rfl, rfl, rfl, by omega⟩

/-- A flag fed while hunting or at a byte boundary pushes nothing (R114). -/
theorem feed_flag_queue (p : Params) {r : RxSide} (h : CountedAtMost 0 r) :
    (feed p flagBits r).rxq = r.rxq ∧ (feed p flagBits r).status = r.status := by
  have hq := feed_within_byte p flagOpening (by decide) h
  have h6 := feed_flagOpening_ones p r
  rw [feed_flagBits]
  generalize feed p flagOpening r = r' at hq h6 ⊢
  rw [hdlcRxBit_flagEnd p h6]
  exact hq

theorem AtBoundary.countedAtMost {run : Nat} {r : RxSide} (h : AtBoundary run r) : CountedAtMost 0 r := by
  intro _
  simp [h.bitCnt]

/-! Receiving data and nothing else: what the receiver does with a boundary behind it -/

/-- From a byte boundary the bytes are pushed, in order, and the receiver is left at a boundary after a run of `run'`
ones. -/
structure Receives (bytes : List Byte) (run' : Nat) (r r' : RxSide) : Prop where
  boundary : AtBoundary run' r'
  rxq : r'.rxq = r.rxq ++ bytes
  status : r'.status = r.status

theorem Receives.trans {xs ys : List Byte} {m n : Nat} {r r' r'' : RxSide} (h : Receives xs m r r')
    (h' : Receives ys n r' r'') : Receives (xs ++ ys) n r r'' :=
  ⟨h'.boundary, by rw [h'.rxq, h.rxq, List.append_assoc], h'.status.trans h.status⟩

theorem AtBoundary.receives_flag {run : Nat} {r : RxSide} (h : AtBoundary run r) (p : Params) :
    Receives [] 0 r (feed p flagBits r) := by
  obtain ⟨hq, hs⟩ := feed_flag_queue p h.countedAtMost
  exact ⟨atBoundary_feed_flag p r, by rw [hq, List.append_nil], hs⟩

theorem AtBoundary.receives_flags {r : RxSide} (h : AtBoundary 0 r) (p : Params) (n : Nat) :
    Receives [] 0 r (feed p (flags n) r) := by
  induction n generalizing r with
  | zero => exact ⟨h, (List.append_nil _).symm, rfl⟩
  | succ n ih =>
    rw [flags, feed_append]
    have hf := h.receives_flag p
    exact hf.trans (ih hf.boundary)

end Sys2Proof.Machine
end

section

namespace Sys2Proof.Machine

open Safety

/-! Data bits (R109 to R111) -/

/-- The receive side with another count of ones. -/
def RxSide.withOnes (r : RxSide) (n : BitVec 3) : RxSide := { r with rx := { r.rx with ones := n } }

theorem completeByte_withOnes (cap : Nat) (r : RxSide) (n : BitVec 3) :
    completeByte cap (r.withOnes n) = (completeByte cap r).withOnes n := by
  have hq : (r.withOnes n).rxq = r.rxq := rfl
  unfold completeByte
  rw [hq]
  split <;> rfl

/-- The count of ones is no business of a kept bit (R110). -/
theorem keepBit_withOnes (p : Params) (b : Bool) (r : RxSide) (n : BitVec 3) :
    keepBit p b (r.withOnes n) = (keepBit p b r).withOnes n := by
  have hs : (r.withOnes n).rx.sync = r.rx.sync := rfl
  have hc : (r.withOnes n).rx.bitCnt = r.rx.bitCnt := rfl
  unfold keepBit
  dsimp only
  rw [hs, hc]
  split
  · split
    · exact completeByte_withOnes p.rxqCap
        { r with rx := { r.rx with shift := shiftIn p.bitOrder r.rx.shift b, bitCnt := r.rx.bitCnt + 1 } } n
    · rfl
  · rfl

/-- `bits` kept one after the other. -/
def keepBits (p : Params) : List Bool → RxSide → RxSide
  | [], r => r
  | b :: rest, r => keepBits p rest (keepBit p b r)

theorem runAfter_le {run : Nat} (h : run ≤ 5) (b : Bool) : runAfter run b ≤ 5 := by
  unfold runAfter
  split_ifs <;> omega

theorem runOf_le {run : Nat} (h : run ≤ 5) (bits : List Bool) : runOf run bits ≤ 5 := by
  induction bits generalizing run with
  | nil => exact h
  | cons b rest ih => exact ih (runAfter_le h b)

theorem hdlcRxBit_stuffZero (p : Params) (r : RxSide) : hdlcRxBit p false (r.withOnes 5) = r.withOnes 0 := rfl

theorem countOne_ofNat {run : Nat} (h : run ≤ 4) : countOne (BitVec.ofNat 3 run) = BitVec.ofNat 3 (run + 1) := by
  interval_cases run <;> rfl

theorem hdlcRxBit_data (p : Params) (b : Bool) (r : RxSide) {run : Nat} (h : run ≤ 4) :
    hdlcRxBit p b (r.withOnes (BitVec.ofNat 3 run)) =
      (keepBit p b r).withOnes (BitVec.ofNat 3 (runAfter run b)) := by
  have hones : (r.withOnes (BitVec.ofNat 3 run)).rx.ones = BitVec.ofNat 3 run := rfl
  rcases hdlcRxBit_cases p b (r.withOnes (BitVec.ofNat 3 run)) with
    ⟨_, h7, _⟩ | ⟨_, h6, _⟩ | ⟨_, h5, _⟩ | ⟨rfl, _, he⟩ | ⟨rfl, _, _, he⟩
  · rw [hones, countOne_ofNat h] at h7
    bv_omega
  · rw [hones] at h6
    bv_omega
  · rw [hones] at h5
    bv_omega
  · have hrun : runAfter run true = run + 1 := by rw [runAfter, if_pos rfl, if_neg (by omega)]
    rw [he, hones, countOne_ofNat h, hrun]
    exact keepBit_withOnes p true r _
  · rw [he]
    exact keepBit_withOnes p false r 0

/-- What the receiver does with stuffed bits: exactly the data bits are kept (R113). -/
theorem feed_stuffBits (p : Params) (bits : List Bool) (r : RxSide) {run : Nat} (h : run ≤ 5) :
    feed p (stuffBits run bits) (r.withOnes (BitVec.ofNat 3 run)) =
      (keepBits p bits r).withOnes (BitVec.ofNat 3 (runOf run bits)) := by
  induction bits generalizing run r with
  | nil => rfl
  | cons b rest ih =>
    have ih' := ih (keepBit p b r) (runAfter_le h b)
    by_cases h5 : run = 5
    · subst h5
      have hrun : runAfter 0 b = runAfter 5 b := by cases b <;> rfl
      have hb : hdlcRxBit p b (r.withOnes 0) = (keepBit p b r).withOnes (BitVec.ofNat 3 (runAfter 5 b)) :=
        hrun ▸ hdlcRxBit_data p b r (run := 0) (by omega)
      have hs : stuffBits 5 (b :: rest) = false :: b :: stuffBits (runAfter 5 b) rest := rfl
      rw [hs, feed, feed]
      exact (congrArg (feed p _) hb).trans ih'
    · rw [stuffBits_cons_of_ne_five h5, feed, hdlcRxBit_data p b r (by omega)]
      exact ih'

/-! Eight kept bits are a byte in either order (R14, R110) -/

theorem shiftIn_lsbFirst (reg : Byte) (b : Bool) : shiftIn .lsbFirst reg b = BitVec.cons b (reg.extractLsb' 1 7) := by
  apply BitVec.eq_of_toNat_eq
  have := reg.isLt
  rw [BitVec.toNat_cons']
  cases b <;> simp [shiftIn, wrapU, sra, bitValue, Nat.shiftRight_eq_div_pow] <;> omega

theorem shiftIn_msbFirst (reg : Byte) (b : Bool) : shiftIn .msbFirst reg b = BitVec.concat (reg.setWidth 7) b := by
  apply BitVec.eq_of_toNat_eq
  have := reg.isLt
  cases b <;> simp [shiftIn, wrapU, bitValue, BitVec.toNat_concat] <;> omega

theorem foldl_shiftIn_byteBits (o : BitOrder) (reg b : Byte) : (byteBits o b).foldl (shiftIn o) reg = b := by
  apply BitVec.eq_of_getLsbD_eq
  intro i hi
  cases o with
  | lsbFirst =>
    simp only [byteBits, List.foldl, shiftIn_lsbFirst, BitVec.getLsbD_cons, BitVec.getLsbD_extractLsb']
    interval_cases i <;> simp
  | msbFirst =>
    interval_cases i <;> simp [byteBits, shiftIn_msbFirst]

/-- Fewer than eight kept bits since the last boundary are shifted in and counted (R110). -/
theorem keepBits_within_byte (p : Params) (bits : List Bool) {r : RxSide} (hs : r.rx.sync = true)
    (h : r.rx.bitCnt.toNat + bits.length ≤ 7) :
    keepBits p bits r =
      { r with rx := { r.rx with
          shift := bits.foldl (shiftIn p.bitOrder) r.rx.shift
          bitCnt := r.rx.bitCnt + BitVec.ofNat 3 bits.length } } := by
  induction bits generalizing r with
  | nil => simp [keepBits]
  | cons b rest ih =>
    rw [List.length_cons] at h
    rcases keepBit_cases p b r with ⟨hs', _⟩ | ⟨_, _, he⟩ | ⟨_, h7, _⟩
    · simp [hs] at hs'
    · have hc : (r.rx.bitCnt + 1).toNat = r.rx.bitCnt.toNat + 1 := by bv_omega
      have hlen : r.rx.bitCnt + BitVec.ofNat 3 (rest.length + 1) = r.rx.bitCnt + 1 + BitVec.ofNat 3 rest.length := by
        bv_omega
      rw [keepBits, he, List.length_cons, hlen]
      refine ih (r := { r with rx := { r.rx with
        shift := shiftIn p.bitOrder r.rx.shift b, bitCnt := r.rx.bitCnt + 1 } }) hs ?_
      show (r.rx.bitCnt + 1).toNat + rest.length ≤ 7
      omega
    · rw [h7] at h
      simp at h

theorem keepBits_append (p : Params) (xs ys : List Bool) (r : RxSide) :
    keepBits p (xs ++ ys) r = keepBits p ys (keepBits p xs r) := by
  induction xs generalizing r with
  | nil => rfl
  | cons b rest ih => exact ih (keepBit p b r)

/-- The eighth bit since the last boundary completes the byte, and there is room for it (R111, R112). -/
theorem keepBit_eighth (p : Params) (b : Bool) {r : RxSide} (hs : r.rx.sync = true) (h7 : r.rx.bitCnt = 7)
    (hroom : r.rxq.length < p.rxqCap) :
    keepBit p b r =
      { r with
        rx := { r.rx with shift := shiftIn p.bitOrder r.rx.shift b, bitCnt := 0 }
        rxq := r.rxq ++ [shiftIn p.bitOrder r.rx.shift b] } := by
  rcases keepBit_cases p b r with ⟨hs', _⟩ | ⟨_, h7', _⟩ | ⟨_, _, he⟩
  · simp [hs] at hs'
  · exact absurd h7 h7'
  · rcases completeByte_cases p.rxqCap
      { r with rx := { r.rx with shift := shiftIn p.bitOrder r.rx.shift b, bitCnt := 0 } } with ⟨hf, _⟩ | ⟨_, hc⟩
    · exact absurd hroom (Nat.not_lt.2 hf)
    · exact he.trans hc

/-- A whole byte of kept bits, from a boundary, is pushed. -/
theorem keepBits_byte (p : Params) (b : Byte) {r : RxSide} (hs : r.rx.sync = true) (hc : r.rx.bitCnt = 0)
    (hroom : r.rxq.length < p.rxqCap) :
    keepBits p (byteBits p.bitOrder b) r =
      { r with rx := { r.rx with shift := b, bitCnt := 0 }, rxq := r.rxq ++ [b] } := by
  have hfold := foldl_shiftIn_byteBits p.bitOrder r.rx.shift b
  have hlen := byteBits_length p.bitOrder b
  have hsplit := List.dropLast_append_getLast (byteBits_ne_nil p.bitOrder b)
  generalize (byteBits p.bitOrder b).dropLast = init at hsplit
  generalize (byteBits p.bitOrder b).getLast _ = last at hsplit
  rw [← hsplit] at hfold hlen ⊢
  rw [List.foldl_append] at hfold
  rw [List.length_append, List.length_singleton] at hlen
  have h7 : init.length = 7 := by omega
  rw [keepBits_append, keepBits_within_byte p init hs (by rw [hc, h7]; decide), keepBits, keepBits,
    keepBit_eighth p last (by exact hs) (by rw [hc, h7]; rfl) (by exact hroom)]
  rw [show shiftIn p.bitOrder (init.foldl (shiftIn p.bitOrder) r.rx.shift) last = b from hfold]

end Sys2Proof.Machine
end

section

namespace Sys2Proof.Machine

open Safety

/-! A transmission received -/

theorem AtBoundary.withOnes_eq {run : Nat} {r : RxSide} (h : AtBoundary run r) :
    r.withOnes (BitVec.ofNat 3 run) = r := by
  have hones : BitVec.ofNat 3 run = r.rx.ones := by
    have := h.ones
    bv_omega
  rw [hones]
  rfl

/-- The stuff bit owed is dropped (R109). -/
theorem AtBoundary.receives_owedBit {run : Nat} {r : RxSide} (h : AtBoundary run r) (p : Params) :
    ∃ run', Receives [] run' r (feed p (owedBit run) r) := by
  by_cases h5 : run = 5
  · subst h5
    have he : feed p (owedBit 5) r = r.withOnes 0 := congrArg (hdlcRxBit p false) h.withOnes_eq.symm
    rw [he]
    exact ⟨0, ⟨h.sync, h.bitCnt, rfl, by omega⟩, (List.append_nil _).symm, rfl⟩
  · rw [owedBit_of_ne_five h5]
    exact ⟨run, h, (List.append_nil _).symm, rfl⟩

/-- A stuffed byte is pushed as it was queued (R113). -/
theorem AtBoundary.receives_byte {run : Nat} {r : RxSide} (h : AtBoundary run r) {p : Params} (b : Byte)
    (hroom : r.rxq.length < p.rxqCap) :
    Receives [b] (runOf run (byteBits p.bitOrder b)) r
      (feed p (stuffBits run (byteBits p.bitOrder b)) r) := by
  have hrun := runOf_le h.run_le (byteBits p.bitOrder b)
  have he := feed_stuffBits p (byteBits p.bitOrder b) r h.run_le
  rw [h.withOnes_eq, keepBits_byte p b h.sync h.bitCnt hroom] at he
  rw [he]
  refine ⟨⟨h.sync, rfl, ?_, hrun⟩, rfl, rfl⟩
  show (BitVec.ofNat 3 (runOf run (byteBits p.bitOrder b))).toNat = _
  bv_omega

/-- The bytes a receiver pushes of those queued: the others are boundaries (R103). -/
def dataBytes (bytes : List Byte) : List Byte := bytes.filter fun b => b ≠ 0x7E

theorem dataBytes_flag (rest : List Byte) : dataBytes (0x7E :: rest) = dataBytes rest := rfl

theorem dataBytes_byte {b : Byte} (hb : b ≠ 0x7E) (rest : List Byte) :
    dataBytes (b :: rest) = b :: dataBytes rest := List.filter_cons_of_pos (decide_eq_true hb)

/-- The body of a transmission is received as the bytes other than 0x7E. -/
theorem AtBoundary.receives_wireBody {p : Params} (bytes : List Byte) {run : Nat} {r : RxSide} (h : AtBoundary run r)
    (hroom : r.rxq.length + (dataBytes bytes).length ≤ p.rxqCap) :
    ∃ run', Receives (dataBytes bytes) run' r (feed p (wireBody p.bitOrder run bytes) r) := by
  induction bytes generalizing run r with
  | nil => exact h.receives_owedBit p
  | cons b rest ih =>
    by_cases hb : b = 0x7E
    · subst hb
      rw [dataBytes_flag] at hroom ⊢
      rw [wireBody_flag, feed_append, feed_append]
      obtain ⟨m, howed⟩ := h.receives_owedBit p
      have hflag := howed.trans (howed.boundary.receives_flag p)
      obtain ⟨n, hrest⟩ := ih hflag.boundary (by rw [hflag.rxq, List.append_nil, List.append_nil]; exact hroom)
      exact ⟨n, hflag.trans hrest⟩
    · rw [dataBytes_byte hb, List.length_cons] at hroom
      rw [dataBytes_byte hb, wireBody_byte _ _ hb, feed_append]
      have hbyte := h.receives_byte b (p := p) (by omega)
      obtain ⟨n, hrest⟩ := ih hbyte.boundary (by rw [hbyte.rxq, List.length_append, List.length_singleton]; omega)
      exact ⟨n, hbyte.trans hrest⟩

/-- A transmission with a preamble, or with 0x7E queued first, begins with a flag (R89, R103). -/
theorem wire_eq_flag_append (c : TxConfig) {q : List Byte} (h : nFlags c.preamble ≠ 0 ∨ q.head? = some 0x7E) :
    ∃ n q', dataBytes q' = dataBytes q ∧
      wire c q = flagBits ++ (flags n ++ (wireBody c.bitOrder 0 q' ++ flags (nFlags c.tail).toNat)) := by
  by_cases hn : nFlags c.preamble = 0
  · obtain ⟨rest, rfl⟩ := List.head?_eq_some_iff.1 (h.resolve_left (not_not.2 hn))
    refine ⟨0, rest, (dataBytes_flag rest).symm, ?_⟩
    rw [wire, hn, wireBody_flag, List.append_assoc, List.append_assoc]
    rfl
  · refine ⟨(nFlags c.preamble - 1).toNat, q, rfl, ?_⟩
    rw [wire, flags_of_ne_zero hn, List.append_assoc, List.append_assoc]

theorem AtBoundary.receives_tail {run : Nat} {r : RxSide} (h : AtBoundary run r) (p : Params) (n : Nat) :
    ∃ run', Receives [] run' r (feed p (flags n) r) := by
  cases n with
  | zero => exact ⟨run, h, (List.append_nil _).symm, rfl⟩
  | succ n =>
    have hf := h.receives_flag p
    rw [flags, feed_append]
    exact ⟨0, hf.trans (hf.boundary.receives_flags p n)⟩

/-- Settles O60: the first flag aligns the receiver, and from there it follows the wire format. -/
theorem anyReceiverRecoversAFlaggedTransmission : Obligations.AnyReceiverRecoversAFlaggedTransmission := by
  intro p c d r ho hs hq hflag flagged data done
  refine ⟨fun hsync => feed_flag_queue p (by simp [CountedAtMost, hsync]), fun hroom => ?_⟩
  obtain ⟨hbits, -, -⟩ := transmissionFollowsTheWireFormat c d hs hq
  obtain ⟨n, q', hdata, hwire⟩ := wire_eq_flag_append c hflag
  have hdone : done = feed p (flags (nFlags c.tail).toNat)
      (feed p (wireBody p.bitOrder 0 q') (feed p (flags n) flagged)) := by
    simp only [done, flagged, hbits]
    rw [hwire, ho, feed_append, feed_append, feed_append]
  have hpre := (atBoundary_feed_flag p r).receives_flags p n
  obtain ⟨m, hbody⟩ := hpre.boundary.receives_wireBody q' (by rw [hpre.rxq, List.append_nil, hdata]; exact hroom)
  obtain ⟨m', htail⟩ := hbody.boundary.receives_tail p (nFlags c.tail).toNat
  have hall := (hpre.trans hbody).trans htail
  rw [List.nil_append, List.append_nil, hdata] at hall
  rw [hdone]
  exact ⟨hall.rxq, hall.status⟩

/-- Settles O51: for a hunting receiver the first flag leaves queue and `STATUS` as they are. -/
theorem receiverRecoversTheTransmission : Obligations.ReceiverRecoversTheTransmission := by
  intro p c d r ho hs hq hn hsync hroom
  obtain ⟨hunting, received⟩ := anyReceiverRecoversAFlaggedTransmission p c d r ho hs hq (.inl hn)
  obtain ⟨hrxq, hstatus⟩ := hunting hsync
  obtain ⟨hdone, hdone'⟩ := received (by rw [hrxq]; exact hroom)
  exact ⟨by rw [hdone, hrxq], hdone'.trans hstatus⟩

end Sys2Proof.Machine
end

section

namespace Sys2Proof.Machine

open Safety

/-! A bit step outside idle as one `TXS` (R101, R102, R120) -/

/-- When a bit step is due, `TXS` takes it and sends the first sample of the bit it chose (R120). -/
theorem exec_txs_of_bitStep {s : State} (hi : s.initialised = true) (hsc : s.tx.sampleCtr = 0) :
    exec .txs s = .next (afterBitStep s (txNextBit s.txConfig s.txSide).tx (txNextBit s.txConfig s.txSide).txq) := by
  have hside : s.txSide.tx.sampleCtr = 0 := hsc
  have hexec := execTxs_of_txSide_eq (s := s) hi rfl rfl
  rw [txSideStep_of_bitStep s.txConfig hside, txSideStep_sample_of_bitStep s.txConfig hside, ncoStep_sample] at hexec
  exact hexec

theorem txNextBit_of_active (c : TxConfig) {d : TxSide} (hact : d.tx.state ≠ .idle) :
    txNextBit c d = nextBitActive c d := if_neg hact

/-- Settles O28: a stuff bit owed is the first thing a bit step looks for. -/
theorem txsSendsTheStuffBit : Obligations.TxsSendsTheStuffBit := by
  intro s hi hact hsc ho
  rw [exec_txs_of_bitStep hi hsc, txNextBit_of_active s.txConfig (d := s.txSide) hact,
    nextBitActive_of_stuffOwed s.txConfig (d := s.txSide) ho]
  rfl

/-- Settles O29: inside a byte the bit step is `TxDataBit`. -/
theorem txsSendsTheNextBitOfTheByte : Obligations.TxsSendsTheNextBitOfTheByte := by
  intro s hi hact hsc hno hidx
  rw [exec_txs_of_bitStep hi hsc, txNextBit_of_active s.txConfig (d := s.txSide) hact,
    nextBitActive_of_insideByte s.txConfig (d := s.txSide) hno hidx]
  rfl

/-! The wire format holds no abort (R104) -/

/-- In bits that follow a run of `run` ones no run of ones reaches seven. -/
def NoAbort : Nat → List Bool → Prop
  | _, [] => True
  | run, true :: rest => run + 1 < 7 ∧ NoAbort (run + 1) rest
  | _, false :: rest => NoAbort 0 rest

/-- A shorter run before the bits does no harm. -/
theorem NoAbort.mono {m n : Nat} {bits : List Bool} (h : NoAbort n bits) (hmn : m ≤ n) : NoAbort m bits := by
  induction bits generalizing m n with
  | nil => trivial
  | cons b rest ih =>
    cases b with
    | false => exact h
    | true => exact ⟨by have := h.1; omega, ih h.2 (by omega)⟩

theorem NoAbort.of_append {n : Nat} {xs ys : List Bool} (h : NoAbort n (xs ++ ys)) : NoAbort 0 ys := by
  induction xs generalizing n with
  | nil => exact h.mono (Nat.zero_le n)
  | cons b rest ih =>
    cases b with
    | false => exact ih h
    | true => exact ih h.2

theorem NoAbort.not_seven_ones {n : Nat} {bits : List Bool} (h : NoAbort n bits) :
    ¬ List.replicate 7 true <:+: bits := by
  rintro ⟨xs, ys, rfl⟩
  rw [List.append_assoc] at h
  simpa [List.replicate, NoAbort] using h.of_append

/-- A flag holds six ones between two zeros, so it may follow any run and leaves none (R88). -/
theorem noAbort_flagBits_append (run : Nat) {rest : List Bool} (h : NoAbort 0 rest) :
    NoAbort run (flagBits ++ rest) := by
  simpa [flagBits, NoAbort] using h

theorem noAbort_flags (run n : Nat) : NoAbort run (flags n) := by
  induction n generalizing run with
  | zero => trivial
  | succ n ih => exact noAbort_flagBits_append run (ih 0)

theorem noAbort_flags_append (n : Nat) {rest : List Bool} (h : NoAbort 0 rest) : NoAbort 0 (flags n ++ rest) := by
  induction n with
  | zero => exact h
  | succ n ih =>
    rw [flags, List.append_assoc]
    exact noAbort_flagBits_append 0 ih

theorem noAbort_owedBit_append {run : Nat} {rest : List Bool} (h : NoAbort run rest) :
    NoAbort run (owedBit run ++ rest) := by
  unfold owedBit
  split
  · exact h.mono (Nat.zero_le run)
  · exact h

theorem noAbort_cons {run : Nat} (hrun : run < 5) {b : Bool} {rest : List Bool} (h : NoAbort (runAfter run b) rest) :
    NoAbort run (b :: rest) := by
  cases b with
  | false => exact h
  | true =>
    have hsucc : runAfter run true = run + 1 := by rw [runAfter, if_pos rfl, if_neg (by omega)]
    exact ⟨by omega, hsucc ▸ h⟩

/-- Stuffed bits hold no run of more than five ones, so what counts is the run they leave (R89). -/
theorem noAbort_stuffBits_append {run : Nat} (hrun : run ≤ 5) {bits rest : List Bool}
    (h : NoAbort (runOf run bits) rest) : NoAbort run (stuffBits run bits ++ rest) := by
  induction bits generalizing run with
  | nil => exact h
  | cons b bits ih =>
    have htail := ih (runAfter_le hrun b) h
    by_cases h5 : run = 5
    · subst h5
      have hafter : runAfter 0 b = runAfter 5 b := by cases b <;> rfl
      exact noAbort_cons (run := 0) (by omega) (hafter ▸ htail)
    · rw [stuffBits_cons_of_ne_five h5]
      exact noAbort_cons (by omega) htail

theorem noAbort_wireBody_append (o : BitOrder) (q : List Byte) {run : Nat} (hrun : run ≤ 5) {rest : List Bool}
    (h : NoAbort 5 rest) : NoAbort run (wireBody o run q ++ rest) := by
  induction q generalizing run with
  | nil => exact noAbort_owedBit_append (h.mono hrun)
  | cons b q ih =>
    by_cases hb : b = 0x7E
    · rw [hb, wireBody_flag, List.append_assoc, List.append_assoc]
      exact noAbort_owedBit_append (noAbort_flagBits_append run (ih (by omega)))
    · rw [wireBody_byte o run hb, List.append_assoc]
      exact noAbort_stuffBits_append hrun (ih (runOf_le hrun _))

theorem noAbort_wire (c : TxConfig) (q : List Byte) : NoAbort 0 (wire c q) := by
  rw [wire, List.append_assoc]
  exact noAbort_flags_append _ (noAbort_wireBody_append c.bitOrder q (Nat.zero_le 5) (noAbort_flags 5 _))

/-! While `sending` is 1 the bits sent are a part of the wire format (R89) -/

/-- An idle serializer with nothing queued stays so (R123 step 1). -/
theorem txNextBit_of_quiet (c : TxConfig) {d : TxSide} (hs : d.tx.state = .idle) (hq : d.txq = []) :
    txNextBit c d = { d with tx := { d.tx with curBit := true } } := by
  rcases txNextBit_cases c d with ⟨_, _, he⟩ | ⟨_, hq', _⟩ | ⟨hact, _⟩
  · exact he
  · exact absurd hq hq'
  · exact absurd hs hact

/-- After the wire format `sending` is 0 for good (R128). -/
theorem not_sending_after_wire (c : TxConfig) {d : TxSide} (hs : d.tx.state = .idle) (hq : d.txq ≠ []) (k : Nat) :
    (bitSteps c ((wire c d.txq).length + 1 + k) d).2.tx.state = .idle ∧
    (bitSteps c ((wire c d.txq).length + 1 + k) d).2.tx.sending = false ∧
    (bitSteps c ((wire c d.txq).length + 1 + k) d).2.txq = [] := by
  induction k with
  | zero =>
    obtain ⟨-, -, hidle, hsend, -, hempty⟩ := transmissionFollowsTheWireFormat c d hs hq
    exact ⟨hidle, hsend, hempty⟩
  | succ k ih =>
    obtain ⟨hidle, hsend, hempty⟩ := ih
    rw [← Nat.add_assoc, bitSteps_succ_last, txNextBit_of_quiet c hidle hempty]
    exact ⟨hidle, hsend, hempty⟩

theorem le_wire_length_of_sending {c : TxConfig} {d : TxSide} {n : Nat} (hs : d.tx.state = .idle) (hq : d.txq ≠ [])
    (hsend : (bitSteps c n d).2.tx.sending = true) : n ≤ (wire c d.txq).length := by
  by_contra hn
  obtain ⟨k, rfl⟩ := Nat.exists_eq_add_of_lt (not_le.1 hn)
  obtain ⟨-, hno, -⟩ := not_sending_after_wire c hs hq k
  rw [Nat.add_right_comm, hno] at hsend
  cases hsend

/-- The first bit steps send the first bits of the wire format, whatever the sample counter, which a bit step does not
read (R89). -/
theorem bitSteps_eq_take_wire (c : TxConfig) {d : TxSide} {n : Nat} (hs : d.tx.state = .idle) (hq : d.txq ≠ [])
    (hn : n ≤ (wire c d.txq).length) : (bitSteps c n d).1 = (wire c d.txq).take n := by
  have hdue : WireDue c (d.withSampleCtr 0) (wire c d.txq) := .starts hs hq
  obtain ⟨hbits, -⟩ := hdue.bitSteps_take n rfl hn
  rwa [bitSteps_withSampleCtr] at hbits

/-- Settles O37: while `sending` is 1 the bits sent begin the wire format, which holds no seven ones. -/
theorem noAbortWhileSending : Obligations.NoAbortWhileSending := by
  intro c d n hs hq hsend hones
  rw [bitSteps_eq_take_wire c hs hq (le_wire_length_of_sending hs hq hsend)] at hones
  exact (noAbort_wire c d.txq).not_seven_ones (hones.trans (List.take_prefix n _).isInfix)

end Sys2Proof.Machine
end

section

namespace Sys2Proof.Machine

open Safety

/-! What a decided bit does, by the ones counted before it (R107 to R110) -/

theorem countOne_of_six_le {n : BitVec 3} (h : 6 ≤ n) : countOne n = 7 := by
  unfold countOne
  split <;> bv_omega

theorem hdlcRxBit_abort (p : Params) {r : RxSide} (h : 6 ≤ r.rx.ones) :
    hdlcRxBit p true r = { r with rx := { r.rx with ones := 7, sync := false, bitCnt := 0 } } := by
  rcases hdlcRxBit_cases p true r with ⟨_, _, he⟩ | ⟨hb, _⟩ | ⟨hb, _⟩ | ⟨_, h7, _⟩ | ⟨hb, _⟩
  · exact he
  · cases hb
  · cases hb
  · exact absurd (countOne_of_six_le h) h7
  · cases hb

/-- Settles O47: abort, flag and stuff zero, each by the ones counted. -/
theorem runsOfOnesAreAbortFlagOrStuffing : Obligations.RunsOfOnesAreAbortFlagOrStuffing := by
  intro p r
  refine ⟨hdlcRxBit_abort p, hdlcRxBit_flagEnd p, fun h5 => ?_⟩
  have hr : r.withOnes 5 = r := by rw [← h5]; rfl
  have hzero := hdlcRxBit_stuffZero p r
  rw [hr] at hzero
  exact hzero

/-- A bit that is no abort, closes no flag and is no stuff zero is kept, and counted with the ones (R106, R110). -/
theorem hdlcRxBit_of_kept (p : Params) {b : Bool} {r : RxSide}
    (h : (b = true ∧ r.rx.ones < 6) ∨ (b = false ∧ r.rx.ones ≠ 5 ∧ r.rx.ones ≠ 6)) :
    hdlcRxBit p b r = keepBit p b (r.withOnes (if b then r.rx.ones + 1 else 0)) := by
  rcases h with ⟨rfl, h6⟩ | ⟨rfl, h5, h6⟩
  · have hcount : countOne r.rx.ones = r.rx.ones + 1 := by
      unfold countOne
      split <;> bv_omega
    rcases hdlcRxBit_cases p true r with ⟨_, h7, _⟩ | ⟨hb, _⟩ | ⟨hb, _⟩ | ⟨_, _, he⟩ | ⟨hb, _⟩
    · rw [hcount] at h7
      bv_omega
    · cases hb
    · cases hb
    · rw [he, hcount]
      rfl
    · cases hb
  · rcases hdlcRxBit_cases p false r with ⟨hb, _⟩ | ⟨_, h6', _⟩ | ⟨_, h5', _⟩ | ⟨hb, _⟩ | ⟨_, _, _, he⟩
    · cases hb
    · exact absurd h6' h6
    · exact absurd h5' h5
    · cases hb
    · exact he

/-! What a kept bit does, by the state of the byte it belongs to (R110 to R112) -/

theorem keepBit_hunting (p : Params) (b : Bool) {r : RxSide} (hs : r.rx.sync = false) :
    keepBit p b r = { r with rx := { r.rx with shift := shiftIn p.bitOrder r.rx.shift b } } := by
  rcases keepBit_cases p b r with ⟨_, he⟩ | ⟨hs', _⟩ | ⟨hs', _⟩
  · exact he
  · simp [hs] at hs'
  · simp [hs] at hs'

theorem keepBit_counting (p : Params) (b : Bool) {r : RxSide} (hs : r.rx.sync = true) (h7 : r.rx.bitCnt ≠ 7) :
    keepBit p b r =
      { r with rx := { r.rx with shift := shiftIn p.bitOrder r.rx.shift b, bitCnt := r.rx.bitCnt + 1 } } := by
  rcases keepBit_cases p b r with ⟨hs', _⟩ | ⟨_, _, he⟩ | ⟨_, h7', _⟩
  · simp [hs] at hs'
  · exact he
  · exact absurd h7' h7

/-- The eighth bit completes a byte the full queue has no room for (R112). -/
theorem keepBit_overrun (p : Params) (b : Bool) {r : RxSide} (hs : r.rx.sync = true) (h7 : r.rx.bitCnt = 7)
    (hfull : p.rxqCap ≤ r.rxq.length) :
    keepBit p b r =
      { r with
        rx := { r.rx with shift := shiftIn p.bitOrder r.rx.shift b, bitCnt := 0 }
        status := setOvr r.status } := by
  rcases keepBit_cases p b r with ⟨hs', _⟩ | ⟨_, h7', _⟩ | ⟨_, _, he⟩
  · simp [hs] at hs'
  · exact absurd h7 h7'
  · rcases completeByte_cases p.rxqCap
      { r with rx := { r.rx with shift := shiftIn p.bitOrder r.rx.shift b, bitCnt := 0 } } with ⟨_, hc⟩ | ⟨hroom, _⟩
    · exact he.trans hc
    · exact absurd hroom (Nat.not_lt.2 hfull)

/-- With the least significant bit first a bit enters at bit 7 and the register shifts right (R110). -/
theorem shiftIn_lsbFirst_eq_or (reg : Byte) (b : Bool) :
    shiftIn .lsbFirst reg b = (reg >>> 1) ||| (if b then 0x80 else 0) := by
  rw [shiftIn_lsbFirst]
  apply BitVec.eq_of_getLsbD_eq
  intro i hi
  interval_cases i <;> cases b <;> simp [BitVec.getElem_cons]

/-- With the most significant bit first a bit enters at bit 0 and the register shifts left (R110). -/
theorem shiftIn_msbFirst_eq_or (reg : Byte) (b : Bool) :
    shiftIn .msbFirst reg b = (reg <<< 1) ||| (if b then 1 else 0) := by
  rw [shiftIn_msbFirst]
  apply BitVec.eq_of_getLsbD_eq
  intro i hi
  interval_cases i <;> cases b <;> simp

/-- Settles O48: the bit is kept, and what it does is the byte's. -/
theorem keptBitsAssembleBytes : Obligations.KeptBitsAssembleBytes := by
  intro p b r hkept shift ones
  have hshift : shiftIn p.bitOrder r.rx.shift b = shift := by
    obtain ⟨o, txqCap, rxqCap⟩ := p
    cases o with
    | lsbFirst => exact shiftIn_lsbFirst_eq_or r.rx.shift b
    | msbFirst => exact shiftIn_msbFirst_eq_or r.rx.shift b
  rw [hdlcRxBit_of_kept p hkept, ← hshift]
  exact ⟨keepBit_hunting p b (r := r.withOnes ones), keepBit_counting p b (r := r.withOnes ones),
    keepBit_eighth p b (r := r.withOnes ones), keepBit_overrun p b (r := r.withOnes ones)⟩

/-! Seven ones after a zero (R107, R114) -/

/-- The ones counter saturates at seven (R106). -/
theorem countOne_toNat (n : BitVec 3) : (countOne n).toNat = min 7 (n.toNat + 1) := by
  unfold countOne
  split <;> bv_omega

theorem feed_ones_count (p : Params) (n : Nat) (r : RxSide) :
    (feed p (List.replicate n true) r).rx.ones.toNat = min 7 (r.rx.ones.toNat + n) := by
  induction n generalizing r with
  | zero =>
    show r.rx.ones.toNat = min 7 (r.rx.ones.toNat + 0)
    omega
  | succ n ih =>
    have hone : (hdlcRxBit p true r).rx.ones = countOne r.rx.ones := hdlcRxBit_ones p true r
    rw [List.replicate_succ, feed, ih, hone, countOne_toNat]
    omega

/-- The last of seven or more ones is an abort, whatever came before (R107, R114). -/
theorem feed_ones_aborts (p : Params) {n : Nat} (hn : 7 ≤ n) (r : RxSide) :
    (feed p (List.replicate n true) r).rx.sync = false ∧ (feed p (List.replicate n true) r).rx.bitCnt = 0 := by
  obtain ⟨k, rfl⟩ : ∃ k, n = k + 1 := ⟨n - 1, by omega⟩
  have hcount := feed_ones_count p k r
  have h6 : 6 ≤ (feed p (List.replicate k true) r).rx.ones := by
    rw [BitVec.le_def, hcount]
    show 6 ≤ _
    omega
  rw [List.replicate_succ', feed_append, feed, feed, hdlcRxBit_abort p h6]
  exact ⟨rfl, rfl⟩

/-- Settles O49: a flag leaves the receiver at a byte boundary, seven ones leave it hunting. -/
theorem flagsAndAbortsAreAlwaysRecognized : Obligations.FlagsAndAbortsAreAlwaysRecognized := by
  intro p r
  have hflag := atBoundary_feed_flag p r
  exact ⟨⟨hflag.sync, hflag.bitCnt⟩, fun n hn => feed_ones_aborts p hn (hdlcRxBit p false r)⟩

end Sys2Proof.Machine
end

section

namespace Sys2Proof.Machine

open Safety

/-! The bits kept of a stuffed sequence (R110, R113) -/

theorem keptBits_append (p : Params) (xs ys : List Bool) (r : RxSide) :
    keptBits p (xs ++ ys) r = keptBits p xs r ++ keptBits p ys (feed p xs r) := by
  induction xs generalizing r with
  | nil => rfl
  | cons b rest ih => rw [List.cons_append, keptBits, ih, keptBits, List.append_assoc, feed]

theorem isKept_of_run_le {run : Nat} (h : run ≤ 4) (b : Bool) : isKept (BitVec.ofNat 3 run) b = true := by
  interval_cases run <;> cases b <;> rfl

/-- After at most four ones any bit is kept. -/
theorem keptBits_data (p : Params) (b : Bool) (rest : List Bool) (r : RxSide) {run : Nat} (h : run ≤ 4) :
    keptBits p (b :: rest) (r.withOnes (BitVec.ofNat 3 run)) =
      b :: keptBits p rest ((keepBit p b r).withOnes (BitVec.ofNat 3 (runAfter run b))) := by
  have hones : (r.withOnes (BitVec.ofNat 3 run)).rx.ones = BitVec.ofNat 3 run := rfl
  rw [keptBits, hones, isKept_of_run_le h b, hdlcRxBit_data p b r h]
  rfl

/-- The zero after five ones is not kept (R109). -/
theorem keptBits_stuffZero (p : Params) (rest : List Bool) (r : RxSide) :
    keptBits p (false :: rest) (r.withOnes 5) = keptBits p rest (r.withOnes 0) := rfl

theorem keptBits_stuffBits (p : Params) (bits : List Bool) (r : RxSide) {run : Nat} (h : run ≤ 5) :
    keptBits p (stuffBits run bits) (r.withOnes (BitVec.ofNat 3 run)) = bits := by
  induction bits generalizing run r with
  | nil => rfl
  | cons b rest ih =>
    have hdata {m : Nat} (hm : m ≤ 4) :
        keptBits p (stuffBits m (b :: rest)) (r.withOnes (BitVec.ofNat 3 m)) = b :: rest := by
      rw [stuffBits_cons_of_ne_five (by omega), keptBits_data p b _ r hm, ih _ (runAfter_le (by omega) b)]
    by_cases h5 : run = 5
    · subst h5
      rw [stuffBits_five (List.cons_ne_nil b rest)]
      exact (keptBits_stuffZero p _ r).trans (hdata (Nat.zero_le 4))
    · exact hdata (by omega)

/-- Of a flag's bits the receiver keeps all but the closing zero, unless its opening zero is a stuff zero (R108). -/
theorem keptBits_flagBits (p : Params) (r : RxSide) {run : Nat} (h : run ≤ 4) :
    keptBits p flagBits (r.withOnes (BitVec.ofNat 3 run)) = flagOpening := by
  have hzero : ((keepBit p false r).withOnes (BitVec.ofNat 3 (runAfter run false))).rx.ones = 0 := rfl
  rw [flagBits, keptBits_data p false _ r h]
  simp only [keptBits, hdlcRxBit_ones, hzero, if_true]
  decide

/-- A stuff zero owed before the flag is not kept. -/
theorem keptBits_owedBit_flagBits (p : Params) (r : RxSide) {run : Nat} (h : run ≤ 5) :
    keptBits p (owedBit run ++ flagBits) (r.withOnes (BitVec.ofNat 3 run)) = flagOpening := by
  by_cases h5 : run = 5
  · subst h5
    exact (keptBits_stuffZero p flagBits r).trans (keptBits_flagBits p r (Nat.zero_le 4))
  · rw [owedBit_of_ne_five h5]
    exact keptBits_flagBits p r (by omega)

/-- From a flag on the receiver keeps the data bits, and then the bits that open the next flag (R113). -/
theorem AtBoundary.keptBits_stuffed_flag {r : RxSide} (h : AtBoundary 0 r) (p : Params) (bits : List Bool) :
    keptBits p (stuffed bits ++ flagBits) r = bits ++ flagOpening := by
  have hkept := keptBits_stuffBits p bits r h.run_le
  have hfeed := feed_stuffBits p bits r h.run_le
  rw [h.withOnes_eq] at hkept hfeed
  rw [stuffed, List.append_assoc, keptBits_append, hkept, hfeed,
    keptBits_owedBit_flagBits p _ (runOf_le (Nat.zero_le 5) bits)]

/-! Whole bytes between two flags (R111, R113) -/

theorem stuffBits_append (run : Nat) (xs ys : List Bool) :
    stuffBits run (xs ++ ys) = stuffBits run xs ++ stuffBits (runOf run xs) ys := by
  induction xs generalizing run with
  | nil => rfl
  | cons b rest ih => rw [List.cons_append, stuffBits, ih, stuffBits, runOf, List.append_assoc]

theorem runOf_append (run : Nat) (xs ys : List Bool) : runOf run (xs ++ ys) = runOf (runOf run xs) ys := by
  induction xs generalizing run with
  | nil => rfl
  | cons b rest ih => exact ih (runAfter run b)

/-- Stuffed bytes are pushed one after the other, 0x7E like any other. -/
theorem AtBoundary.receives_stuffBits {p : Params} (bytes : List Byte) {run : Nat} {r : RxSide} (h : AtBoundary run r)
    (hroom : r.rxq.length + bytes.length ≤ p.rxqCap) :
    Receives bytes (runOf run (bytes.flatMap (byteBits p.bitOrder))) r
      (feed p (stuffBits run (bytes.flatMap (byteBits p.bitOrder))) r) := by
  induction bytes generalizing run r with
  | nil => exact ⟨h, (List.append_nil _).symm, rfl⟩
  | cons b rest ih =>
    rw [List.length_cons] at hroom
    have hbyte := h.receives_byte b (p := p) (by omega)
    have hrest := ih hbyte.boundary (by rw [hbyte.rxq, List.length_append, List.length_singleton]; omega)
    rw [List.flatMap_cons, stuffBits_append, runOf_append, feed_append]
    exact hbyte.trans hrest

/-- The stuff bit owed and the closing flag push nothing (R109, R113). -/
theorem AtBoundary.receives_stuffed_flag {p : Params} (bytes : List Byte) {r : RxSide} (h : AtBoundary 0 r)
    (hroom : r.rxq.length + bytes.length ≤ p.rxqCap) :
    Receives bytes 0 r (feed p (stuffed (bytes.flatMap (byteBits p.bitOrder)) ++ flagBits) r) := by
  have hbytes := h.receives_stuffBits bytes hroom
  obtain ⟨run', howed⟩ := hbytes.boundary.receives_owedBit p
  have hall := (hbytes.trans howed).trans (howed.boundary.receives_flag p)
  rw [List.append_nil, List.append_nil] at hall
  rw [stuffed, feed_append, feed_append]
  exact hall

/-- Settles O50: the first flag leaves any receiver at a byte boundary. -/
theorem stuffingRoundTrip : Obligations.StuffingRoundTrip := by
  intro p r
  have hflag := atBoundary_feed_flag p r
  refine ⟨hflag.keptBits_stuffed_flag p, fun bytes hroom => ?_⟩
  have hreceived := hflag.receives_stuffed_flag bytes hroom
  exact ⟨hreceived.rxq, hreceived.status⟩

end Sys2Proof.Machine
end

section

namespace Sys2Proof.Machine

open Safety

/-! One `TXS` from what its bit step leaves (R120, R130) -/

/-- Inside a bit `TXS` sends one more sample of the bit being sent (R120, R129). -/
theorem exec_txs_of_insideBit {s : State} (hi : s.initialised = true) (hsc : s.tx.sampleCtr ≠ 0) :
    exec .txs s = .next (afterBitStep s s.tx s.txq) := by
  have hside : s.txSide.tx.sampleCtr ≠ 0 := hsc
  have hexec := execTxs_of_txSide_eq (s := s) hi rfl rfl
  rw [txSideStep_of_insideBit s.txConfig hside, txSideStep_sample_of_insideBit s.txConfig hside,
    ncoStep_sample] at hexec
  exact hexec

/-- Whether or not a bit step is due, `TXS` sends a sample of what it leaves, which has the phase as it was. -/
theorem exec_txs_afterBitStep {s : State} (hi : s.initialised = true) :
    ∃ g q, exec .txs s = .next (afterBitStep s g q) ∧ g.phase = s.tx.phase := by
  by_cases hsc : s.tx.sampleCtr = 0
  · obtain ⟨hphase, -⟩ := txNextBit_frame s.txConfig s.txSide
    exact ⟨_, _, exec_txs_of_bitStep hi hsc, hphase⟩
  · exact ⟨_, _, exec_txs_of_insideBit hi hsc, rfl⟩

theorem afterBitStep_phase (s : State) (g : TxGroup) (q : List Byte) :
    (afterBitStep s g q).tx.phase = nextPhase g.phase (afterBitStep s g q).tx.curBit := rfl

/-- The sample is the ROM's entry at the top byte of the new phase (R62, R130). -/
theorem afterBitStep_result (s : State) (g : TxGroup) (q : List Byte) :
    (afterBitStep s g q).result = some (.sample (sineRom (romIndex (afterBitStep s g q).tx.phase))) := by
  rw [sineRom, romIndex_toNat]
  rfl

/-- Settles O24: every `TXS` ends in an `afterBitStep`, and no other operation but `INIT` writes the transmit group. -/
theorem phaseMovesByTheToneOfTheBit : Obligations.PhaseMovesByTheToneOfTheBit := by
  refine ⟨fun s hi => ?_, fun i s t hinit htxs ht => ?_⟩
  · obtain ⟨g, q, hexec, hphase⟩ := exec_txs_afterBitStep hi
    refine ⟨_, hexec, ?_, afterBitStep_result s g q⟩
    rw [afterBitStep_phase, hphase, nextPhase]
  · by_contra hne
    have howner : i = .txs ∨ i = .init :=
      (stateIsWrittenOnlyByItsOwner i s t ht).1 fun htx => hne (by rw [htx])
    exact howner.elim htxs hinit

/-- Settles O25: with no bit step due the transmit side is as it was but for the sample. -/
theorem txsInsideABit : Obligations.TxsInsideABit := fun _ hi hsc => exec_txs_of_insideBit hi hsc

/-- Settles O26: the bit step of an idle serializer with nothing queued sends mark. -/
theorem txsIdleSendsMark : Obligations.TxsIdleSendsMark := by
  intro s hi hs hsc hq
  rw [exec_txs_of_bitStep hi hsc, txNextBit_of_quiet s.txConfig (d := s.txSide) hs hq, ← hq]
  rfl

/-! A bit step at a byte boundary: what is loaded, and its first bit (R102, R103, R122 to R128) -/

/-- The first bit of a flag is a 0, in either order, and is not counted. -/
theorem txDataBit_loadFlag (o : BitOrder) {t : TxGroup} (hidx : t.bitIdx = 0) :
    txDataBit o (loadFlag t) = sendingFlag t := by
  have h0 : bitOf o 0x7E#8 0#3 = false := by cases o <;> rfl
  simp [txDataBit, loadFlag, sendingFlag, hidx, h0]

theorem txDataBit_loadQueueByte (o : BitOrder) (b : Byte) {t : TxGroup} (hidx : t.bitIdx = 0) :
    txDataBit o (loadQueueByte b t) = sendingByte o b t := by
  simp [txDataBit, loadQueueByte, sendingByte, hidx]

theorem goIdle_eq_goneIdle (t : TxGroup) : goIdle t = goneIdle t := rfl

theorem tailBoundary_flag {d : TxSide} (hc : d.tx.flagCtr ≠ 0) :
    tailBoundary d = .loaded ⟨loadFlag d.tx, d.txq⟩ := if_pos hc

theorem tailBoundary_ends {d : TxSide} (hc : d.tx.flagCtr = 0) :
    tailBoundary d = .wentIdle ⟨goIdle d.tx, d.txq⟩ := if_neg (not_not.2 hc)

theorem dataBoundary_cons (c : TxConfig) {d : TxSide} {b : Byte} {rest : List Byte} (hq : d.txq = b :: rest) :
    dataBoundary c d = .loaded ⟨loadQueueByte b d.tx, rest⟩ := by
  rw [dataBoundary, hq, qPop_cons]

theorem dataBoundary_nil (c : TxConfig) {d : TxSide} (hq : d.txq = []) :
    dataBoundary c d = tailBoundary ⟨{ d.tx with state := .tail, flagCtr := nFlags c.tail }, []⟩ := by
  rw [dataBoundary, hq, qPop_nil]

/-- A preamble with a flag left loads it, and the queue is not examined (R124). -/
theorem byteBoundary_preambleFlag (c : TxConfig) {d : TxSide} (hs : d.tx.state = .preamble) (hc : d.tx.flagCtr ≠ 0) :
    byteBoundary c d = .loaded { d with tx := loadFlag d.tx } := by
  simp only [byteBoundary, hs]
  exact if_pos hc

/-- A preamble with no flag left goes on to the oldest queue byte (R124). -/
theorem byteBoundary_preambleEnds (c : TxConfig) {d : TxSide} {b : Byte} {rest : List Byte}
    (hs : d.tx.state = .preamble) (hc : d.tx.flagCtr = 0) (hq : d.txq = b :: rest) :
    byteBoundary c d = .loaded ⟨loadQueueByte b { d.tx with state := .data }, rest⟩ := by
  simp only [byteBoundary, hs]
  exact (if_neg (not_not.2 hc)).trans (dataBoundary_cons c hq)

theorem byteBoundary_data (c : TxConfig) {d : TxSide} (hs : d.tx.state = .data) :
    byteBoundary c d = dataBoundary c d := by
  simp only [byteBoundary, hs]

theorem byteBoundary_tail (c : TxConfig) {d : TxSide} (hs : d.tx.state = .tail) :
    byteBoundary c d = tailBoundary d := by
  simp only [byteBoundary, hs]

/-- A `TXS` whose bit step is at a byte boundary, of the transmit side `d` that step 1 of `TxNextBit` leaves:
the state's own, or that of a transmission just started (R122, R123). -/
structure TxsAtBoundary (s : State) (d : TxSide) : Prop where
  initialised : s.initialised = true
  sampleCtr : s.tx.sampleCtr = 0
  bitStep : txNextBit s.txConfig s.txSide = nextBitActive s.txConfig d
  noStuffBit : ¬ StuffOwed d.tx
  bitIdx : d.tx.bitIdx = 0

theorem txsAtBoundary_of_active {s : State} (hi : s.initialised = true) (hact : s.tx.state ≠ .idle)
    (hsc : s.tx.sampleCtr = 0) (hno : ¬ StuffOwed s.tx) (hidx : s.tx.bitIdx = 0) : TxsAtBoundary s s.txSide :=
  ⟨hi, hsc, txNextBit_of_active s.txConfig hact, hno, hidx⟩

theorem txsAtBoundary_of_start {s : State} (hi : s.initialised = true) (hs : s.tx.state = .idle)
    (hsc : s.tx.sampleCtr = 0) (hq : s.txq ≠ []) : TxsAtBoundary s ⟨startTransmission s.txConfig s.tx, s.txq⟩ := by
  obtain ⟨hno, hidx⟩ := startTransmission_at_boundary s.txConfig s.tx
  refine ⟨hi, hsc, ?_, hno, hidx⟩
  rcases txNextBit_cases s.txConfig s.txSide with ⟨_, hempty, _⟩ | ⟨_, _, he⟩ | ⟨hact, _⟩
  · exact absurd hempty hq
  · exact he
  · exact absurd hs hact

theorem TxsAtBoundary.exec_txs {s : State} {d : TxSide} (h : TxsAtBoundary s d) {r : Boundary}
    (hr : byteBoundary s.txConfig d = r) :
    exec .txs s = .next (afterBitStep s (r.bitSent s.params.bitOrder).tx (r.bitSent s.params.bitOrder).txq) := by
  rw [exec_txs_of_bitStep h.initialised h.sampleCtr, h.bitStep, nextBitActive_of_boundary _ h.noStuffBit h.bitIdx, hr]
  rfl

theorem TxsAtBoundary.exec_txs_of_loadFlag {s : State} {d : TxSide} (h : TxsAtBoundary s d) {t : TxGroup}
    {q : List Byte} (hidx : t.bitIdx = 0) (hr : byteBoundary s.txConfig d = .loaded ⟨loadFlag t, q⟩) :
    exec .txs s = .next (afterBitStep s (sendingFlag t) q) := by
  rw [h.exec_txs hr, Boundary.bitSent, txDataBit_loadFlag _ hidx]

theorem TxsAtBoundary.exec_txs_of_loadQueueByte {s : State} {d : TxSide} (h : TxsAtBoundary s d) {t : TxGroup}
    {b : Byte} {q : List Byte} (hidx : t.bitIdx = 0)
    (hr : byteBoundary s.txConfig d = .loaded ⟨loadQueueByte b t, q⟩) :
    exec .txs s = .next (afterBitStep s (sendingByte s.params.bitOrder b t) q) := by
  rw [h.exec_txs hr, Boundary.bitSent, txDataBit_loadQueueByte _ _ hidx]

theorem TxsAtBoundary.exec_txs_of_goIdle {s : State} {d : TxSide} (h : TxsAtBoundary s d) {t : TxGroup}
    {q : List Byte} (hr : byteBoundary s.txConfig d = .wentIdle ⟨goIdle t, q⟩) :
    exec .txs s = .next (afterBitStep s (goneIdle t) q) := by
  rw [h.exec_txs hr, Boundary.bitSent, goIdle_eq_goneIdle]

/-- Settles O27: the transmission starts at a byte boundary of its preamble. -/
theorem txsStartsATransmission : Obligations.TxsStartsATransmission := by
  intro s b rest hi hs hsc hq
  have hstart := txsAtBoundary_of_start hi hs hsc (by simp [hq])
  refine ⟨fun hn => ?_, fun hn => ?_⟩
  · have hflag := hstart.exec_txs_of_loadFlag rfl (byteBoundary_preambleFlag s.txConfig rfl hn)
    exact hflag
  · have hdata := hstart.exec_txs_of_loadQueueByte rfl (byteBoundary_preambleEnds s.txConfig rfl hn hq)
    rw [← hn]
    exact hdata

/-- Settles O30: one more flag, or the first queue byte. -/
theorem txsAtAPreambleByteBoundary : Obligations.TxsAtAPreambleByteBoundary := by
  intro s hi hs hsc hno hidx
  have hbound := txsAtBoundary_of_active hi (by simp [hs]) hsc hno hidx
  refine ⟨fun hc => ?_, fun b rest hc hq => ?_⟩
  · exact hbound.exec_txs_of_loadFlag hidx (byteBoundary_preambleFlag s.txConfig hs hc)
  · exact hbound.exec_txs_of_loadQueueByte hidx (byteBoundary_preambleEnds s.txConfig hs hc hq)

/-- Settles O31: the three cases of `dataBoundary`. -/
theorem txsAtADataByteBoundary : Obligations.TxsAtADataByteBoundary := by
  intro s hi hs hsc hno hidx
  have hbound := txsAtBoundary_of_active hi (by simp [hs]) hsc hno hidx
  have hdata := byteBoundary_data s.txConfig (d := s.txSide) hs
  refine ⟨fun b rest hq => ?_, fun hq hn => ?_, fun hq hn => ?_⟩
  · exact hbound.exec_txs_of_loadQueueByte hidx (hdata.trans (dataBoundary_cons s.txConfig hq))
  · have hnil := hdata.trans (dataBoundary_nil s.txConfig hq)
    exact hbound.exec_txs_of_loadFlag hidx (hnil.trans (tailBoundary_flag hn))
  · have hnil := hdata.trans (dataBoundary_nil s.txConfig hq)
    rw [← hn]
    exact hbound.exec_txs_of_goIdle (hnil.trans (tailBoundary_ends hn))

/-- Settles O32: the two cases of `tailBoundary`. -/
theorem txsAtATailByteBoundary : Obligations.TxsAtATailByteBoundary := by
  intro s hi hs hsc hno hidx
  have hbound := txsAtBoundary_of_active hi (by simp [hs]) hsc hno hidx
  have htail := byteBoundary_tail s.txConfig (d := s.txSide) hs
  refine ⟨fun hc => ?_, fun hc => ?_⟩
  · exact hbound.exec_txs_of_loadFlag hidx (htail.trans (tailBoundary_flag hc))
  · exact hbound.exec_txs_of_goIdle (htail.trans (tailBoundary_ends hc))

end Sys2Proof.Machine
end

section

namespace Sys2Proof.Machine

open Safety

/-! The idle tone (R132, law L4) -/

/-- Idle with nothing to send: a bit step is due at every `TXS`, and mark is the bit. -/
structure QuietIdle (d : TxSide) : Prop where
  state : d.tx.state = .idle
  sampleCtr : d.tx.sampleCtr = 0
  curBit : d.tx.curBit = true
  txq : d.txq = []

/-- A transmit side at another phase. -/
def TxSide.withPhase (d : TxSide) (p : BitVec 16) : TxSide := { d with tx := { d.tx with phase := p } }

theorem TxSide.withPhase_phase (d : TxSide) (p : BitVec 16) : (d.withPhase p).tx.phase = p := rfl

theorem TxSide.withPhase_withPhase (d : TxSide) (p q : BitVec 16) :
    (d.withPhase p).withPhase q = d.withPhase q := rfl

theorem QuietIdle.withPhase {d : TxSide} (h : QuietIdle d) (p : BitVec 16) : QuietIdle (d.withPhase p) :=
  ⟨h.state, h.sampleCtr, h.curBit, h.txq⟩

/-- Choosing mark again changes nothing. -/
theorem QuietIdle.txNextBit_eq {d : TxSide} (h : QuietIdle d) (c : TxConfig) : txNextBit c d = d := by
  rw [txNextBit_of_quiet c h.state h.txq, ← h.curBit]

theorem QuietIdle.sampleOut_eq {d : TxSide} (h : QuietIdle d) :
    sampleOut d = d.withPhase (nextPhase d.tx.phase true) := by
  have hctr : stepSampleCtr (ncoStep d.tx).1 = (ncoStep d.tx).1 := by
    simp [stepSampleCtr, ncoStep, h.state, ← h.sampleCtr]
  rw [sampleOut, hctr, ← h.curBit]
  rfl

/-- One `TXS` of the idle tone is a mark sample and moves the phase only (R132). -/
theorem QuietIdle.txSideStep_eq {d : TxSide} (h : QuietIdle d) (c : TxConfig) :
    txSideStep c d = (d.withPhase (nextPhase d.tx.phase true),
      sineTable.getD (nextPhase d.tx.phase true >>> 8).toNat 0) := by
  refine Prod.ext ?_ ?_
  · rw [txSideStep_of_bitStep c h.sampleCtr, h.txNextBit_eq, h.sampleOut_eq]
  · rw [txSideStep_sample_of_bitStep c h.sampleCtr, h.txNextBit_eq, ncoStep_sample, h.curBit]

theorem QuietIdle.sampleSteps_eq {d : TxSide} (h : QuietIdle d) (c : TxConfig) (n : Nat) :
    sampleSteps c n d = (toneSamples d.tx.phase (List.replicate n true),
      d.withPhase (tonePhase d.tx.phase (List.replicate n true))) := by
  induction n generalizing d with
  | zero => rfl
  | succ n ih =>
    rw [sampleSteps, h.txSideStep_eq, ih (h.withPhase _), List.replicate_succ, toneSamples_cons, tonePhase_cons,
      TxSide.withPhase_phase, TxSide.withPhase_withPhase]

/-- Eight mark increments are a whole turn of the phase (R130, R132). -/
theorem tonePhase_eight_marks (p : BitVec 16) : tonePhase p (List.replicate 8 true) = p := by
  simp only [List.replicate, tonePhase, if_true]
  bv_omega

/-- From a phase that is a multiple of the mark increment, eight mark samples are law L4's, begun at that multiple. -/
theorem toneSamples_eight_marks (k : BitVec 3) :
    toneSamples (k ++ 0#13) (List.replicate 8 true) = [218, 255, 218, 128, 38, 1, 38, 128].rotate k.toNat := by
  revert k
  decide

/-- Law L4: the same from any phase whose bits 12:0 are 0. -/
theorem toneSamples_of_low_bits_zero {p : BitVec 16} (h : p.extractLsb' 0 13 = 0#13) :
    toneSamples p (List.replicate 8 true) =
      [218, 255, 218, 128, 38, 1, 38, 128].rotate (p.extractLsb' 13 3).toNat := by
  have hp : p.extractLsb' 13 3 ++ 0#13 = p := by
    rw [← h, BitVec.extractLsb'_append_extractLsb'_eq_extractLsb' (by rfl)]
    simp
  rw [← toneSamples_eight_marks, hp]

/-- Settles O38: the run of `TXS` is that of the transmit side, which is quiet by the invariant. -/
theorem idleToneIsStable : Obligations.IdleToneIsStable := by
  intro s h hi hs hq
  obtain ⟨⟨-, -, hidle, -⟩, -⟩ := Inv.txSideInv h hi
  obtain ⟨hmark, hsc, -⟩ := hidle hs
  have hquiet : QuietIdle s.txSide := ⟨hs, hsc, hmark, hq⟩
  have hrun : ∀ n, ∃ t, sampleRun n s = .next (toneSamples s.tx.phase (List.replicate n true), t) ∧
      t.tx = { s.tx with phase := tonePhase s.tx.phase (List.replicate n true) } := fun n => by
    obtain ⟨r, hr⟩ := sampleRun_eq_sampleSteps n hi
    rw [hquiet.sampleSteps_eq] at hr
    exact ⟨_, hr, rfl⟩
  refine ⟨hrun, ?_⟩
  obtain ⟨t, hsamples, htx⟩ := hrun 8
  rw [tonePhase_eight_marks] at htx
  exact ⟨_, t, hsamples, htx, fun hlow => ⟨_, toneSamples_of_low_bits_zero hlow⟩⟩

end Sys2Proof.Machine
end

section

namespace Sys2Proof.Machine

/-! The number of flags (R121) -/

theorem nFlags_toNat (n : BitVec 16) : (nFlags n).toNat = (n.toNat + 7) / 8 := by
  have hn := n.isLt
  simp only [nFlags, wrapU, sra, BitVec.toNat_ofInt]
  omega

/-- Settles O22: the floor is below 8193, so 14 bits hold it. -/
theorem flagCountCoversTheBits : Obligations.FlagCountCoversTheBits :=
  ⟨nFlags_toNat, by decide⟩

/-! The sine ROM (R131): two symmetries, checked on the table as a list, give the rest from one half wave -/

/-- The second half of the table is the first with its sign turned, 256 less each entry. -/
theorem sineTable_halves : sineTable.drop 128 = (sineTable.take 128).map (- ·) := by rfl

/-- The first half wave, with the entry that follows it, reads the same from both ends. -/
theorem sineTable_palindrome : List.Palindrome (sineTable.take 129) := by decide

theorem sineTable_idxsOf_255 : sineTable.idxsOf 255 = [61, 62, 63, 64, 65, 66, 67] := by decide

theorem sineTable_sum : (sineTable.map BitVec.toNat).sum = 32768 := by
  simp only [sineTable, List.map_append, List.sum_append]
  rfl

theorem sineTable_add_half {n : Nat} (h : n < 128) : sineTable.getD (n + 128) 0 = - sineTable.getD n 0 := by
  have hn : sineTable[n + 128]? = sineTable[n]?.map (- ·) := by
    simpa [List.getElem?_drop, List.getElem?_take, h, Nat.add_comm] using congrArg (·[n]?) sineTable_halves
  rw [List.getD_eq_getElem?_getD, List.getD_eq_getElem?_getD, hn]
  cases sineTable[n]? <;> rfl

theorem sineTable_half_sub {n : Nat} (h : n ≤ 128) : sineTable.getD (128 - n) 0 = sineTable.getD n 0 := by
  have hlen : (sineTable.take 129).length = 129 := by rw [List.length_take, sineTable_length]; rfl
  have hn : sineTable[128 - n]? = sineTable[n]? := by
    have hrev : (sineTable.take 129).reverse[n]? = (sineTable.take 129)[n]? := by rw [sineTable_palindrome.reverse_eq]
    rw [List.getElem?_reverse (by omega), hlen] at hrev
    simpa [List.getElem?_take, show n < 129 by omega, show 128 - n < 129 by omega] using hrev
  rw [List.getD_eq_getElem?_getD, List.getD_eq_getElem?_getD, hn]

/-- R131: half a wave further on, the entry is 256 less it, modulo 256. -/
theorem sineRom_add_half (i : BitVec 8) : sineRom (i + 128) = - sineRom i := by
  rcases Nat.lt_or_ge i.toNat 128 with h | h
  · have hi : (i + 128).toNat = i.toNat + 128 := by bv_omega
    rw [sineRom, sineRom, hi, sineTable_add_half h]
  · have hi : i.toNat = (i + 128).toNat + 128 := by bv_omega
    rw [sineRom, sineRom, hi, sineTable_add_half (by omega), BitVec.neg_neg]

/-- R131: the wave is symmetric about its maximum; the second half wave follows from the first. -/
theorem sineRom_half_sub (i : BitVec 8) : sineRom (128 - i) = sineRom i := by
  have hfirst : ∀ j : BitVec 8, j.toNat ≤ 128 → sineRom (128 - j) = sineRom j := fun j hj => by
    have hsub : (128 - j).toNat = 128 - j.toNat := by bv_omega
    rw [sineRom, sineRom, hsub, sineTable_half_sub hj]
  rcases Nat.lt_or_ge 128 i.toNat with h | h
  · have hi : i = (i - 128) + 128 := by bv_omega
    have hsub : 128 - i = (128 - (i - 128)) + 128 := by bv_omega
    rw [hsub, sineRom_add_half, hfirst _ (by bv_omega), ← sineRom_add_half, ← hi]
  · exact hfirst i h

theorem sineRom_eq_255_iff (i : BitVec 8) : sineRom i = 255 ↔ 61 ≤ i.toNat ∧ i.toNat ≤ 67 := by
  have hlt : i.toNat < sineTable.length := by rw [sineTable_length]; exact i.isLt
  have hmem := List.mem_idxsOf_iff_getElem_pos (x := (255 : BitVec 8)) hlt
  rw [sineTable_idxsOf_255, beq_iff_eq, ← List.getD_eq_getElem _ 0 hlt] at hmem
  rw [sineRom, ← hmem]
  simp only [List.mem_cons, List.not_mem_nil, or_false]
  omega

/-- The minimum stands half a wave from the maximum. -/
theorem sineRom_eq_1_iff (i : BitVec 8) : sineRom i = 1 ↔ 189 ≤ i.toNat ∧ i.toNat ≤ 195 := by
  have hneg : sineRom i = 1 ↔ sineRom (i + 128) = 255 := by
    rw [sineRom_add_half]
    constructor <;> intro h <;> bv_omega
  rw [hneg, sineRom_eq_255_iff]
  bv_omega

/-- Settles O23: the two symmetries and where the maximum stands give the rest. -/
theorem sineRomHasItsSymmetries : Obligations.SineRomHasItsSymmetries := by
  refine ⟨sineTable_length, rfl, rfl, rfl, rfl, fun i => ?_, sineTable_sum⟩
  have hne := sineRom_ne_zero i
  have hhalf := sineRom_add_half i
  exact ⟨by bv_omega, sineRom_eq_1_iff i, sineRom_eq_255_iff i, by bv_omega, (sineRom_half_sub i).symm⟩

end Sys2Proof.Machine
end

section

namespace Sys2Proof.Machine

/-! `RXS` as a whole (R140, R142) -/

/-- Settles O39: the value and its range are those of every product of two samples, the corner cases are computed. -/
theorem discriminatorIsExact : Obligations.DiscriminatorIsExact := by
  refine ⟨fun s d => ⟨discriminate_eq s d, discriminate_range s d⟩, rfl, rfl, rfl, fun s => ⟨?_, ?_⟩, rfl⟩
  · simp [discriminate_eq]
  · simp [discriminate_eq]

/-- The word of `RXS x` is 0x10000 with the sample pattern in bits 7:0 (R81, R83). -/
theorem encode_rxs (x : Sample) : encode (.rxs x) = 0x10000 + x.setWidth 20 := by
  have hcode : (opCode (.rxs x)).toNat = 1 := rfl
  have hoperand : (operandBits (.rxs x)).toNat = x.toNat := BitVec.toNat_setWidth_of_le (by omega)
  have h := Laws.encode_toNat (.rxs x)
  rw [hcode, hoperand] at h
  bv_omega

/-- Settles O40: the obligation's arithmetic is that of `newX` and `newY`; the clock and the framer are the model's. -/
theorem rxsIsFilterThenClockThenFramer : Obligations.RxsIsFilterThenClockThenFramer := by
  refine ⟨fun x => (decodeInvertsEncode _ _).2 (encode_rxs x), fun x s hi => ?_⟩
  intro x0 y0 g c r
  have hx : newX s.rx x = x0 := wrapS_eq 16 _
  have hy : newY s.rx x = y0 := by rw [newY_eq, hx]
  have hg : filterStep s.rx x = g := by rw [filterStep, hx, hy]; rfl
  have hr : rxSideStep s.params x s.rxSide = r := by rw [rxSideStep, State.rxSide_rx, hy, hg]; rfl
  rw [← hr]
  exact execRxs_of_rxSide_eq x hi rfl rfl

end Sys2Proof.Machine
end

section

namespace Sys2Proof.Machine

/-! Traces (R92) -/

theorem runTrace_cons {i : Instr} {s t : State} (rest : List Instr) (h : exec i s = .next t) :
    runTrace (i :: rest) s = runTrace rest t := by
  rw [runTrace, h]
  rfl

/-- `INIT` completes from any state and leaves the receive side of R50's table (R205). -/
theorem exec_init_rxSide (s : State) :
    ∃ t, exec .init s = .next t ∧ t.initialised = true ∧ t.rxSide = ⟨RxGroup.reset, 0x00, []⟩ :=
  ⟨_, rfl, rfl, rfl⟩

/-- Every operation completes once `INIT` has been executed (R185). -/
theorem exec_completes (i : Instr) {s : State} (hi : s.initialised = true) :
    ∃ t, exec i s = .next t ∧ t.initialised = true := by
  cases i with
  | init => exact ⟨_, rfl, rfl⟩
  | rxs x => exact ⟨_, (execRxs_next x s _).2 ⟨hi, rfl⟩, hi⟩
  | txs => exact ⟨_, (execTxs_next s _).2 ⟨hi, rfl⟩, hi⟩
  | strd => exact ⟨_, (execStrd_next s _).2 ⟨hi, rfl⟩, hi⟩
  | stcl => exact ⟨_, (execStcl_next s _).2 ⟨hi, rfl⟩, hi⟩
  | sndrd => exact ⟨_, (execSndrd_next s _).2 ⟨hi, rfl⟩, hi⟩
  | txw b => exact ⟨_, (execTxw_next b s _).2 ⟨hi, rfl⟩, hi⟩
  | rxr =>
    cases hq : s.rxq with
    | nil => exact ⟨_, exec_rxr_nil hi hq, hi⟩
    | cons b rest => exact ⟨_, exec_rxr_cons hi hq, hi⟩

/-! Silence (R147) -/

/-- A silent sample makes the discriminator value 0, whatever the delay line holds (R142). -/
theorem newX_zero (g : RxGroup) : newX g 0 = 0 := by simp [newX, discriminate_eq]

theorem newY_zero {g : RxGroup} (hx1 : g.x1 = 0) (hx2 : g.x2 = 0) (hy1 : g.y1 = 0) (hy2 : g.y2 = 0) :
    newY g 0 = 0 := by
  rw [newY_eq, newX_zero, hx1, hx2, hy1, hy2]
  rfl

/-- Without a transition the phase grows by one, and the call that reaches a full bit period decides (R156, R157). -/
theorem clockStep_steady {pol : Bool} {g : RxGroup} (hpol : pol = g.lastPol) (h7 : g.phase.toNat ≤ 7) :
    (g.phase.toNat = 7 ∧ (clockStep pol g).1 = true ∧ (clockStep pol g).2.phase.toNat = 0) ∨
    (g.phase.toNat < 7 ∧ (clockStep pol g).1 = false ∧ (clockStep pol g).2.phase.toNat = g.phase.toNat + 1) := by
  have hn : nudgedPhase pol g = g.phase.toNat := if_neg fun hn => hn.1 hpol
  rcases clockStep_cases pol g with ⟨h8, he⟩ | ⟨h8, he⟩ <;> rw [hn] at h8 he <;> rw [he]
  · have hphase : g.phase.toNat = 7 := by omega
    exact .inl ⟨hphase, rfl, by rw [hphase]; rfl⟩
  · exact .inr ⟨by omega, rfl, Nat.mod_eq_of_lt (by omega)⟩

/-- A one heard while hunting is shifted in or is an abort: the framer goes on hunting (R107, R110). -/
theorem hdlcRxBit_one_hunting (p : Params) {r : RxSide} (hs : r.rx.sync = false) :
    (hdlcRxBit p true r).rx.sync = false ∧ (hdlcRxBit p true r).rxq = r.rxq ∧
    (hdlcRxBit p true r).status = r.status := by
  rcases hdlcRxBit_cases p true r with ⟨_, _, he⟩ | ⟨hb, _⟩ | ⟨hb, _⟩ | ⟨_, _, he⟩ | ⟨hb, _⟩
  · rw [he]
    exact ⟨rfl, rfl, rfl⟩
  · cases hb
  · cases hb
  · rw [he]
    have hkeep := keepBit_hunting p true (r := { r with rx := { r.rx with ones := countOne r.rx.ones } }) hs
    exact hkeep ▸ ⟨hs, rfl, rfl⟩
  · cases hb

/-- The receive side after `INIT` and `n` silent samples. -/
structure SilentFor (n : Nat) (r : RxSide) : Prop where
  x1 : r.rx.x1 = 0
  x2 : r.rx.x2 = 0
  y1 : r.rx.y1 = 0
  y2 : r.rx.y2 = 0
  lastPol : r.rx.lastPol = false
  phase : r.rx.phase.toNat = n % 8
  ones : r.rx.ones.toNat = min 7 (n / 8)
  sync : r.rx.sync = false
  rxq : r.rxq = []
  status : r.status = 0x00

theorem silentFor_zero_reset : SilentFor 0 ⟨RxGroup.reset, 0x00, []⟩ := by constructor <;> rfl

/-- The clock and the framer of a silent receive side: each eighth sample decides a one. -/
theorem SilentFor.framer_after_rxs {n : Nat} {r : RxSide} (h : SilentFor n r) (p : Params) :
    (rxSideStep p 0 r).rx.phase.toNat = (n + 1) % 8 ∧ (rxSideStep p 0 r).rx.ones.toNat = min 7 ((n + 1) / 8) ∧
    (rxSideStep p 0 r).rx.sync = false ∧ (rxSideStep p 0 r).rxq = [] ∧ (rxSideStep p 0 r).status = 0x00 := by
  obtain ⟨hx1, hx2, hy1, hy2, hpol, hphase, hones, hsync, hrxq, hstatus⟩ := h
  have hsilent : polarity (newY r.rx 0) = false := by rw [newY_zero hx1 hx2 hy1 hy2]; rfl
  have hstep := rxSideStep_cases p 0 r
  obtain ⟨-, hphase', -⟩ := rxSideStep_clock p 0 r
  rw [hsilent] at hstep hphase'
  obtain ⟨hsync', hones', -⟩ := clockStep_filterStep_framer false r.rx 0
  have hclock := clockStep_steady (g := filterStep r.rx 0) hpol.symm
  rw [show (filterStep r.rx 0).phase.toNat = n % 8 from hphase] at hclock
  generalize clockStep false (filterStep r.rx 0) = c at *
  rw [hphase']
  rcases hclock (by omega) with ⟨h7, hdecided, hnext⟩ | ⟨h7, hundecided, hnext⟩
  · obtain ⟨hs, hq, hst⟩ := hdlcRxBit_one_hunting p (r := { r with rx := c.2 }) (hsync'.trans hsync)
    rcases hstep with ⟨hno, _⟩ | ⟨_, hstep⟩
    · cases hdecided.symm.trans hno
    · rw [hstep, Bool.not_false, hdlcRxBit_ones, if_pos rfl, countOne_toNat, hones', hones]
      exact ⟨by omega, by omega, hs, hq.trans hrxq, hst.trans hstatus⟩
  · rcases hstep with ⟨_, hstep⟩ | ⟨hyes, _⟩
    · rw [hstep, hones', hones, hsync']
      exact ⟨by omega, by omega, hsync, hrxq, hstatus⟩
    · cases hundecided.symm.trans hyes

theorem SilentFor.after_rxs {n : Nat} {r : RxSide} (h : SilentFor n r) (p : Params) :
    SilentFor (n + 1) (rxSideStep p 0 r) := by
  obtain ⟨-, hx1, hx2, hy1, hy2⟩ := rxSideStep_signal p 0 r
  obtain ⟨hpol, -⟩ := rxSideStep_clock p 0 r
  obtain ⟨hphase, hones, hsync, hrxq, hstatus⟩ := h.framer_after_rxs p
  have hY := newY_zero h.x1 h.x2 h.y1 h.y2
  rw [newX_zero] at hx1
  rw [hY] at hy1 hpol
  exact ⟨hx1, hx2.trans h.x1, hy1, hy2.trans h.y1, hpol, hphase, hones, hsync, hrxq, hstatus⟩

theorem SilentFor.runTrace_silence {m : Nat} {s : State} (h : SilentFor m s.rxSide) (hi : s.initialised = true)
    (n : Nat) : ∃ t, runTrace (List.replicate n (.rxs 0)) s = .next t ∧ SilentFor (m + n) t.rxSide := by
  induction n generalizing m s with
  | zero => exact ⟨s, rfl, h⟩
  | succ n ih =>
    have hexec : exec (.rxs 0) s = _ := execRxs_of_rxSide_eq 0 hi rfl rfl
    rw [List.replicate_succ, runTrace_cons _ hexec, ← Nat.add_assoc, Nat.add_right_comm]
    exact ih (h.after_rxs s.params) hi

/-- Settles O52: `INIT` leaves a receive side that has been silent for no sample, and each silent `RXS` adds one. -/
theorem silenceIsIdleMark : Obligations.SilenceIsIdleMark := by
  intro n s
  obtain ⟨u, hinit, hi, hreset⟩ := exec_init_rxSide s
  have hzero : SilentFor 0 u.rxSide := hreset ▸ silentFor_zero_reset
  obtain ⟨t, ht, hsilent⟩ := hzero.runTrace_silence hi n
  rw [Nat.zero_add] at hsilent
  obtain ⟨hx1, hx2, hy1, hy2, hpol, hphase, hones, hsync, hrxq, hstatus⟩ := hsilent
  exact ⟨t, (runTrace_cons _ hinit).trans ht, hx1, hx2, hy1, hy2, hpol, hphase, hones, hsync, hrxq, hstatus⟩

end Sys2Proof.Machine
end

section

namespace Sys2Proof.Machine

/-! The bounds of the filter (R17, R148). The output of one `RXS` is the new discriminator value plus what the cells
feed back; `echo` is that part for this and every later `RXS`, were nothing more fed in. Each `RXS` shifts the echo by
one and adds a multiple of the discriminator value and a multiple of what the floor cuts off, so an echo is bounded by
what is left of the filter's impulse response. -/

/-- The feedback of R143 without its floor: each term of the sequence from the two before it. -/
def feedback (a b : ℚ) : ℕ → ℚ
  | 0 => a
  | k + 1 => feedback b (15 / 16 * b - 5 / 16 * a) k

/-- Superposition: the feedback is linear in the terms it starts from. -/
theorem feedback_add_mul (a b c d e f x r : ℚ) (k : ℕ) :
    feedback (a + c * x + e * r) (b + d * x + f * r) k =
      feedback a b k + feedback c d k * x + feedback e f k * r := by
  induction k generalizing a b c d e f with
  | zero => rfl
  | succ k ih =>
    have hnext : 15 / 16 * (b + d * x + f * r) - 5 / 16 * (a + c * x + e * r) =
        (15 / 16 * b - 5 / 16 * a) + (15 / 16 * d - 5 / 16 * c) * x + (15 / 16 * f - 5 / 16 * e) * r := by ring
    rw [feedback, hnext, ih]
    rfl

theorem feedback_zero (k : ℕ) : feedback 0 0 k = 0 := by
  induction k with
  | zero => rfl
  | succ k ih => simpa [feedback] using ih

/-- A quadratic form of two terms in a row, positive because the filter's poles are complex; each step of the feedback
leaves 5/16 of it. -/
def energy (a b : ℚ) : ℚ := b ^ 2 - 15 / 16 * a * b + 5 / 16 * a ^ 2

theorem energy_next (a b : ℚ) : energy b (15 / 16 * b - 5 / 16 * a) = 5 / 16 * energy a b := by
  unfold energy
  ring

theorem sq_le_energy (a b : ℚ) : a ^ 2 ≤ 1024 / 95 * energy a b := by
  have h := sq_nonneg (b - 15 / 32 * a)
  unfold energy
  linarith

theorem energy_le {a b m n : ℚ} (ha : |a| ≤ m) (hb : |b| ≤ n) :
    energy a b ≤ n ^ 2 + 15 / 16 * (m * n) + 5 / 16 * m ^ 2 := by
  have hab : |a * b| ≤ m * n := abs_mul a b ▸ mul_le_mul ha hb (abs_nonneg b) ((abs_nonneg a).trans ha)
  have ha2 : a ^ 2 ≤ m ^ 2 := sq_le_sq' (abs_le.1 ha).1 (abs_le.1 ha).2
  have hb2 : b ^ 2 ≤ n ^ 2 := sq_le_sq' (abs_le.1 hb).1 (abs_le.1 hb).2
  unfold energy
  linarith [(abs_le.1 hab).1]

/-- The feedback dies away as the energy does. -/
theorem feedback_sq_le (a b : ℚ) (k : ℕ) : feedback a b k ^ 2 ≤ 1024 / 95 * ((5 / 16) ^ k * energy a b) := by
  induction k generalizing a b with
  | zero => simpa [feedback] using sq_le_energy a b
  | succ k ih =>
    have h := ih b (15 / 16 * b - 5 / 16 * a)
    rw [energy_next, ← mul_assoc ((5 / 16) ^ k), ← pow_succ] at h
    exact h

/-- What the cells add to the output of the next `RXS`, without the floor. -/
def echoNow (x1 x2 y1 y2 : ℚ) : ℚ := 2 * x1 + x2 + (15 * y1 - 5 * y2) / 16

/-- What the same cells add to the output of the `RXS` after the next. -/
def echoNext (x1 x2 y1 y2 : ℚ) : ℚ := 15 / 16 * echoNow x1 x2 y1 y2 + (x1 - 5 / 16 * y1)

/-- What the cells add to the outputs of the next `RXS` and the later ones. -/
def echo (x1 x2 y1 y2 : ℚ) : ℕ → ℚ := feedback (echoNow x1 x2 y1 y2) (echoNext x1 x2 y1 y2)

/-- The impulse response of the echo to a discriminator value (R17). -/
def inputWeight : ℕ → ℚ := feedback (47 / 16) (881 / 256)

/-- The impulse response of the echo to what the floor cuts off. -/
def floorWeight : ℕ → ℚ := feedback (15 / 16) (145 / 256)

/-- An output `y` that differs from the exact one by `r` shifts the echo by one and adds the two responses. -/
theorem echo_step (x x1 x2 y1 y2 r : ℚ) (k : ℕ) :
    echo x x1 (x + echoNow x1 x2 y1 y2 + r) y1 k =
      echo x1 x2 y1 y2 (k + 1) + inputWeight k * x + floorWeight k * r := by
  rw [echo, echo, feedback, inputWeight, floorWeight, ← feedback_add_mul]
  congr 1 <;> (unfold echoNext echoNow; ring)

/-- The sum of 11.52 of R17, less the 1 by which the value counts in its own output. -/
theorem sum_inputWeight_le : ∑ i ∈ Finset.range 22, |inputWeight i| ≤ 10.52 := by
  norm_num [inputWeight, Finset.sum_range_succ', feedback, abs_of_pos, abs_of_neg]

/-- The sum of 2.92 of R17, less the 1 by which the floor counts in its own output. -/
theorem sum_floorWeight_le : ∑ i ∈ Finset.range 22, |floorWeight i| ≤ 1.92 := by
  norm_num [floorWeight, Finset.sum_range_succ', feedback, abs_of_pos, abs_of_neg]

/-- The most one `RXS` adds to the echo `k` calls later: its discriminator value is at most 1024, and the floor cuts off
less than one. -/
def kick (k : ℕ) : ℚ := |inputWeight k| * 1024 + |floorWeight k|

/-- A bound of the echo `k` calls later: 22 calls on, less than a half is left of all that is in the cells. -/
def echoBound (k : ℕ) : ℚ := 1 / 2 + ∑ i ∈ Finset.Ico k 22, kick i

theorem echoBound_eq_add_kick {k : ℕ} (hk : k < 22) : echoBound k = echoBound (k + 1) + kick k := by
  rw [echoBound, echoBound, Finset.sum_eq_sum_Ico_succ_bot hk]
  ring

theorem echoBound_zero_le : echoBound 0 ≤ 10775 := by
  have hi := sum_inputWeight_le
  have hf := sum_floorWeight_le
  rw [echoBound, ← Finset.range_eq_Ico]
  simp only [kick, Finset.sum_add_distrib, ← Finset.sum_mul]
  linarith

theorem echoBound_nonneg (k : ℕ) : 0 ≤ echoBound k := by
  unfold echoBound kick
  positivity

/-- After 22 calls the echo has died away, whatever the cells hold within their bounds. -/
theorem echo_dies_away {x1 x2 y1 y2 : ℚ} (hx1 : |x1| ≤ 1024) (hx2 : |x2| ≤ 1024) (hy1 : |y1| ≤ 11800)
    (hy2 : |y2| ≤ 11800) : |echo x1 x2 y1 y2 22| ≤ echoBound 22 := by
  rw [abs_le] at hx1 hx2 hy1 hy2
  have hnow : |echoNow x1 x2 y1 y2| ≤ 18000 := by
    rw [abs_le]
    unfold echoNow
    constructor <;> linarith
  have hnext : |echoNext x1 x2 y1 y2| ≤ 22000 := by
    rw [abs_le] at hnow ⊢
    unfold echoNext
    constructor <;> linarith
  have hsq := feedback_sq_le (echoNow x1 x2 y1 y2) (echoNext x1 x2 y1 y2) 22
  have henergy := energy_le hnow hnext
  have hhalf : echoBound 22 = 1 / 2 := by simp [echoBound]
  rw [hhalf]
  refine abs_le_of_sq_le_sq (hsq.trans ?_) (by norm_num)
  norm_num at henergy ⊢
  linarith

end Sys2Proof.Machine
end

section

namespace Sys2Proof.Machine

/-! The filter of the model keeps within the bounds of its echo (R148) -/

/-- The echo of a receive group's cells. -/
def RxGroup.echo (g : RxGroup) : ℕ → ℚ := Machine.echo g.x1.toInt g.x2.toInt g.y1.toInt g.y2.toInt

theorem RxGroup.echo_zero (g : RxGroup) : g.echo 0 = echoNow g.x1.toInt g.x2.toInt g.y1.toInt g.y2.toInt := rfl

/-- The bounds of the cells (R148), kept through every `RXS` by the bounds of the echo. -/
structure FilterInv (g : RxGroup) : Prop where
  x1 : CellInv g.x1
  x2 : CellInv g.x2
  y1 : |g.y1.toInt| ≤ 11800
  y2 : |g.y2.toInt| ≤ 11800
  echo : ∀ k < 22, |g.echo k| ≤ echoBound k

theorem filterInv_reset : FilterInv RxGroup.reset := by
  refine ⟨by unfold CellInv; decide, by unfold CellInv; decide, by decide, by decide, fun k _ => ?_⟩
  have hzero : RxGroup.reset.echo k = 0 := by
    simpa [RxGroup.echo, Machine.echo, echoNext, echoNow, RxGroup.reset] using feedback_zero k
  rw [hzero, abs_zero]
  exact echoBound_nonneg k

theorem CellInv.abs_toInt_le {x : S16} (h : CellInv x) : |(x.toInt : ℚ)| ≤ 1024 := by
  obtain ⟨hlo, hhi⟩ := h
  unfold asS at hlo hhi
  have habs : |x.toInt| ≤ 1024 := abs_le.2 ⟨by omega, hhi⟩
  exact_mod_cast habs

theorem FilterInv.echo_le {g : RxGroup} (h : FilterInv g) {k : ℕ} (hk : k ≤ 22) : |g.echo k| ≤ echoBound k := by
  rcases hk.lt_or_eq with hlt | rfl
  · exact h.echo k hlt
  · exact echo_dies_away h.x1.abs_toInt_le h.x2.abs_toInt_le (by exact_mod_cast h.y1) (by exact_mod_cast h.y2)

/-- The floor of the feedback cuts off less than one (R12, R143). -/
theorem exists_floor_error (w : ℤ) : ∃ r : ℚ, |r| ≤ 1 ∧ ((w / 16 : ℤ) : ℚ) = w / 16 + r := by
  refine ⟨(w / 16 : ℤ) - w / 16, ?_, by ring⟩
  have hfloor : ⌊(w : ℚ) / 16⌋ = w / 16 := by exact_mod_cast Rat.floor_intCast_div_natCast w 16
  rw [← hfloor, abs_le]
  constructor <;> linarith [Int.floor_le ((w : ℚ) / 16), Int.lt_floor_add_one ((w : ℚ) / 16)]

/-- The filter output before its wrap (R143). -/
def exactY (g : RxGroup) (s : Sample) : ℤ :=
  newX g s + 2 * g.x1.toInt + g.x2.toInt + (15 * g.y1.toInt - 5 * g.y2.toInt) / 16

theorem exists_exactY_eq (g : RxGroup) (s : Sample) : ∃ r : ℚ, |r| ≤ 1 ∧
    (exactY g s : ℚ) = newX g s + echoNow g.x1.toInt g.x2.toInt g.y1.toInt g.y2.toInt + r := by
  obtain ⟨r, hr, hfloor⟩ := exists_floor_error (15 * g.y1.toInt - 5 * g.y2.toInt)
  refine ⟨r, hr, ?_⟩
  unfold exactY echoNow
  push_cast [hfloor]
  ring

theorem newX_abs_le (g : RxGroup) (s : Sample) : |(newX g s : ℚ)| ≤ 1024 := by
  have h := (cellInv_newX g s).abs_toInt_le
  rwa [toInt_wrapU_newX] at h

theorem FilterInv.exactY_abs_le {g : RxGroup} (h : FilterInv g) (s : Sample) : |exactY g s| ≤ 11800 := by
  obtain ⟨r, hr, hy⟩ := exists_exactY_eq g s
  have hx := newX_abs_le g s
  have he := (h.echo_le (Nat.zero_le 22)).trans echoBound_zero_le
  rw [RxGroup.echo_zero] at he
  have habs : |(exactY g s : ℚ)| ≤ 11800 := by
    rw [hy]
    exact (abs_add_three _ _ _).trans (by linarith)
  exact_mod_cast habs

/-- R148: the wrap to 16 bits changes no filter output. -/
theorem FilterInv.newY_eq_exactY {g : RxGroup} (h : FilterInv g) (s : Sample) : newY g s = exactY g s := by
  have hwrap : newY g s = (exactY g s).bmod 65536 := newY_eq g s
  obtain ⟨hlo, hhi⟩ := abs_le.1 (h.exactY_abs_le s)
  rw [hwrap]
  exact Int.bmod_eq_of_le (by omega) (by omega)

theorem FilterInv.after_rxSideStep {r : RxSide} (h : FilterInv r.rx) (p : Params) (s : Sample) :
    FilterInv (rxSideStep p s r).rx := by
  obtain ⟨-, hx1, hx2, hy1, hy2⟩ := rxSideStep_signal p s r
  have hX : (rxSideStep p s r).rx.x1.toInt = newX r.rx s := by rw [hx1, toInt_wrapU_newX]
  have hY : (rxSideStep p s r).rx.y1.toInt = exactY r.rx s := by
    rw [hy1, toInt_wrapU_newY, h.newY_eq_exactY]
  refine ⟨hx1 ▸ cellInv_newX r.rx s, hx2 ▸ h.x1, hY ▸ h.exactY_abs_le s, hy2 ▸ h.y1, fun k hk => ?_⟩
  obtain ⟨e, he, hexact⟩ := exists_exactY_eq r.rx s
  have hecho : (rxSideStep p s r).rx.echo k =
      r.rx.echo (k + 1) + inputWeight k * newX r.rx s + floorWeight k * e := by
    rw [RxGroup.echo, hX, hx2, hY, hy2, hexact]
    exact echo_step ..
  calc |(rxSideStep p s r).rx.echo k|
      ≤ |r.rx.echo (k + 1)| + |inputWeight k * newX r.rx s| + |floorWeight k * e| := hecho ▸ abs_add_three _ _ _
    _ ≤ echoBound (k + 1) + |inputWeight k| * 1024 + |floorWeight k| * 1 := by
      rw [abs_mul, abs_mul]
      gcongr
      · exact h.echo_le hk
      · exact newX_abs_le r.rx s
    _ = echoBound k := by
      rw [echoBound_eq_add_kick hk, kick]
      ring

/-! Every run keeps what `INIT` leaves and `RXS` keeps -/

theorem exec_filterInv {i : Instr} {s t : State} (h : FilterInv s.rx) (ht : exec i s = .next t) : FilterInv t.rx := by
  by_cases hsame : t.rx = s.rx
  · exact hsame ▸ h
  · obtain ⟨-, hrx, -⟩ := stateIsWrittenOnlyByItsOwner i s t ht
    rcases hrx hsame with ⟨x, rfl⟩ | rfl
    · obtain ⟨-, rfl⟩ := (execRxs_next x s t).1 ht
      exact FilterInv.after_rxSideStep (r := s.rxSide) h s.params x
    · obtain rfl := (execInit_next s t).1 ht
      exact filterInv_reset

theorem runTrace_filterInv (trace : List Instr) {s : State} (hi : s.initialised = true) (h : FilterInv s.rx) :
    ∃ t, runTrace trace s = .next t ∧ FilterInv t.rx := by
  induction trace generalizing s with
  | nil => exact ⟨s, rfl, h⟩
  | cons i rest ih =>
    obtain ⟨t, ht, hi'⟩ := exec_completes i hi
    rw [runTrace_cons rest ht]
    exact ih hi' (exec_filterInv h ht)

/-- Settles O43: `INIT` establishes the bounds and every operation keeps them. -/
theorem filterNeverOverflows : Obligations.FilterNeverOverflows := by
  intro trace s
  obtain ⟨u, hinit, hi, hreset⟩ := exec_init_rxSide s
  have hrx : u.rx = RxGroup.reset := congrArg RxSide.rx hreset
  obtain ⟨t, ht, ⟨hx1, hx2, hy1, hy2, -⟩⟩ := runTrace_filterInv trace hi (hrx ▸ filterInv_reset)
  rw [abs_le] at hy1 hy2
  exact ⟨t, (runTrace_cons trace hinit).trans ht, hx1.1, hx1.2, hx2.1, hx2.2, hy1.1, hy1.2, hy2.1, hy2.2⟩

end Sys2Proof.Machine
end

section

namespace Sys2Proof.Machine

/-! The bit clock: one call (R156 to R159, R165) and one bit interval (R160) -/

theorem nudgePhase_le_six {p : Nat} (h : p ≤ 7) : nudgePhase p ≤ 6 := by
  rcases nudgePhase_cases p with h' | h' | h' <;> omega

/-- A call that spends the nudge never decides a bit (R165). -/
theorem clockStep_nudged {pol : Bool} {g : RxGroup} (hn : pol ≠ g.lastPol ∧ g.rawCnt = g.phase) (hp : g.phase ≤ 7) :
    clockStep pol g =
      (false, { g with
        lastPol := pol, phase := BitVec.ofNat 4 (nudgePhase g.phase.toNat + 1), rawCnt := g.rawCnt + 1 }) := by
  have he : nudgedPhase pol g = nudgePhase g.phase.toNat := if_pos hn
  have h6 : nudgePhase g.phase.toNat ≤ 6 := nudgePhase_le_six hp
  rcases clockStep_cases pol g with ⟨h8, _⟩ | ⟨_, h⟩
  · omega
  · rw [h, he]

/-- A call that spends no nudge decides at phase 7 and restarts both counts. -/
theorem clockStep_decides {pol : Bool} {g : RxGroup} (hn : ¬ (pol ≠ g.lastPol ∧ g.rawCnt = g.phase))
    (h7 : g.phase = 7) : clockStep pol g = (true, { g with lastPol := pol, phase := 0, rawCnt := 0 }) := by
  have he : nudgedPhase pol g = 7 := (if_neg hn).trans (by rw [h7]; rfl)
  rcases clockStep_cases pol g with ⟨_, h⟩ | ⟨h8, _⟩
  · rw [h, he]
    rfl
  · omega

/-- A call that spends no nudge below phase 7 ticks both counts. -/
theorem clockStep_ticks {pol : Bool} {g : RxGroup} (hn : ¬ (pol ≠ g.lastPol ∧ g.rawCnt = g.phase))
    (hp : g.phase ≤ 7) (h7 : g.phase ≠ 7) :
    clockStep pol g = (false, { g with lastPol := pol, phase := g.phase + 1, rawCnt := g.rawCnt + 1 }) := by
  have he : nudgedPhase pol g = g.phase.toNat := if_neg hn
  rcases clockStep_cases pol g with ⟨h8, _⟩ | ⟨_, h⟩
  · bv_omega
  · rw [h, he, BitVec.ofNat_add, BitVec.ofNat_toNat, BitVec.setWidth_eq]
    rfl

/-- R165's second row of phases. -/
theorem nudged_row : ∀ p : BitVec 4, p ≤ 7 →
    BitVec.ofNat 4 (nudgePhase p.toNat + 1) = [2, 3, 4, 5, 5, 5, 6, 7].getD p.toNat 0 := by decide

/-- R165's first row of phases. -/
theorem unnudged_row : ∀ p : BitVec 4, p ≤ 7 →
    [1, 2, 3, 4, 5, 6, 7, 0].getD p.toNat 0 = if p = 7 then 0 else p + 1 := by decide

/-- Settles O44: a call spends the nudge, decides a bit, or ticks, and each has its row. -/
theorem clockStepFollowsItsTable : Obligations.ClockStepFollowsItsTable := by
  intro pol g hp _ nudged phase decides
  by_cases hn : nudged
  · have hphase : phase = _ := if_pos hn
    have hd : ¬ decides := fun h => h.2 hn
    rw [clockStep_nudged hn hp, hphase, nudged_row g.phase hp, if_neg hd, decide_eq_false hd]
  · have hphase : phase = _ := (if_neg hn).trans (unnudged_row g.phase hp)
    by_cases h7 : g.phase = 7
    · have hd : decides := ⟨h7, hn⟩
      rw [clockStep_decides hn h7, hphase, if_pos h7, if_pos hd, decide_eq_true hd]
    · have hd : ¬ decides := fun h => h7 h.1
      rw [clockStep_ticks hn hp h7, hphase, if_neg h7, if_neg hd, decide_eq_false hd]

/-- A decision restarts both counts from phase 7, no nudge being spent in the call, and the counts are at most one
apart; any other call counts one more (R159, R160). -/
theorem ClockInv.bit_interval {g : RxGroup} (h : ClockInv g.phase g.rawCnt) (pol : Bool) :
    ((clockStep pol g).2.rawCnt = 0 ∧ (clockStep pol g).2.phase = 0 ∧
      ((g.rawCnt.toNat + 1 = 8 ∧ g.phase = g.rawCnt) ∨ (g.rawCnt.toNat + 1 = 7 ∧ g.phase = g.rawCnt + 1) ∨
       (g.rawCnt.toNat + 1 = 9 ∧ g.phase + 1 = g.rawCnt))) ∨
    (clockStep pol g).2.rawCnt.toNat = g.rawCnt.toNat + 1 := by
  obtain ⟨hp, hr, hd⟩ := h
  have hcount : (g.rawCnt + 1).toNat = g.rawCnt.toNat + 1 := by bv_omega
  by_cases hn : pol ≠ g.lastPol ∧ g.rawCnt = g.phase
  · rw [clockStep_nudged hn hp]
    exact .inr hcount
  · by_cases h7 : g.phase = 7
    · rw [clockStep_decides hn h7]
      refine .inl ⟨rfl, rfl, ?_⟩
      rcases hd with hd | hd | hd
      · exact .inl ⟨by bv_omega, hd⟩
      · exact .inr (.inl ⟨by bv_omega, hd⟩)
      · exact .inr (.inr ⟨by bv_omega, hd⟩)
    · rw [clockStep_ticks hn hp h7]
      exact .inr hcount

/-- Settles O45: the counts after `RXS` are those the bit clock leaves, and the filter changes neither before it. -/
theorem bitIntervalsAreSevenEightOrNine : Obligations.BitIntervalsAreSevenEightOrNine := by
  intro x s t hInv ht
  obtain ⟨hi, rfl⟩ := (execRxs_next x s t).1 ht
  obtain ⟨hclock, -⟩ := (rxInv_iff _).1 (Inv.rxInv hInv hi)
  obtain ⟨-, hphase, hraw⟩ := rxSideStep_clock s.params x s.rxSide
  have hinterval := ClockInv.bit_interval (g := filterStep s.rx x) hclock (polarity (newY s.rx x))
  simp only [State.withRxSide, hphase, hraw]
  exact hinterval

end Sys2Proof.Machine
end

section

namespace Sys2Proof.Machine

open Safety

/-! The bit clock run from transition to transition (R162) -/

theorem clockRun_append (a b : List Bool) (g : RxGroup) :
    (clockRun (a ++ b) g).2 = (clockRun b (clockRun a g).2).2 := by
  induction a generalizing g with
  | nil => rfl
  | cons pol a ih => exact ih _

/-- The decisions of `n` calls that see no transition, from phase `p`: one in each call at phase 7. -/
def decisions (n p : Nat) : List Bool := (List.range n).map fun j => decide ((p + j) % 8 = 7)

theorem decisions_mod (n p : Nat) : decisions n (p % 8) = decisions n p := by
  simp [decisions]

theorem decisions_succ (n p : Nat) : decisions (n + 1) p = decide (p % 8 = 7) :: decisions n (p + 1) := by
  simp [decisions, List.range_succ_eq_map, Nat.add_assoc, Nat.add_comm 1]

/-- What `n` calls that see no transition make of a receive group: the phase counts them modulo a bit period, and the
first decision returns the nudge (R157, R159). -/
structure SteadyRun (n : Nat) (g : RxGroup) (r : List Bool × RxGroup) : Prop where
  lastPol : r.2.lastPol = g.lastPol
  phase : r.2.phase.toNat = (g.phase.toNat + n) % 8
  rawCnt : g.rawCnt = g.phase ∨ 8 ≤ g.phase.toNat + n → r.2.rawCnt = r.2.phase
  bits : r.1 = decisions n g.phase.toNat

theorem SteadyRun.cons {n : Nat} {g : RxGroup} {pol : Bool} {r : List Bool × RxGroup} (hpol : pol = g.lastPol)
    (hp : g.phase ≤ 7) (h : SteadyRun n (clockStep pol g).2 r) :
    SteadyRun (n + 1) g ((clockStep pol g).1 :: r.1, r.2) := by
  obtain ⟨hlast, hphase, hraw, hbits⟩ := h
  have hn : ¬ (pol ≠ g.lastPol ∧ g.rawCnt = g.phase) := fun hn => hn.1 hpol
  have hstep : (clockStep pol g).1 = decide (g.phase.toNat % 8 = 7) ∧
      (clockStep pol g).2.phase.toNat = (g.phase.toNat + 1) % 8 := by
    rcases clockStep_steady hpol hp with ⟨h7, hd, hnext⟩ | ⟨hlt, hd, hnext⟩
    · simp [hd, hnext, h7]
    · rw [hd, hnext]
      exact ⟨(decide_eq_false (by omega)).symm, by omega⟩
  obtain ⟨hdecided, hnext⟩ := hstep
  refine ⟨hlast.trans ((clockStep_lastPol pol g).trans hpol), ?_, fun hfree => hraw ?_, ?_⟩
  · rw [hphase, hnext]
    omega
  · by_cases h7 : g.phase = 7
    · exact .inl (by rw [clockStep_decides hn h7])
    · rcases hfree with heq | h8
      · exact .inl (by rw [clockStep_ticks hn hp h7, heq])
      · exact .inr (by bv_omega)
  · rw [hbits, hdecided, hnext, decisions_mod, decisions_succ]

theorem clockRun_steady (n : Nat) {g : RxGroup} {pol : Bool} (hpol : pol = g.lastPol) (hp : g.phase ≤ 7) :
    SteadyRun n g (clockRun (List.replicate n pol) g) := by
  induction n generalizing g with
  | zero =>
    have h8 : g.phase.toNat < 8 := Nat.lt_succ_of_le hp
    exact ⟨rfl, (Nat.mod_eq_of_lt h8).symm, fun hfree => hfree.resolve_right (Nat.not_le.2 h8), rfl⟩
  | succ n ih =>
    refine .cons hpol hp (ih (clockStep_lastPol pol g).symm ?_)
    rcases clockStep_steady hpol hp with ⟨_, _, h⟩ | ⟨_, _, h⟩ <;> bv_omega

theorem halfWave_eq_cons {k : Nat} (pol : Bool) (hk : 1 ≤ k) :
    halfWave k pol = pol :: List.replicate (8 * k - 1) pol := by
  rw [← List.replicate_succ, Nat.sub_add_cancel (by omega)]
  rfl

/-- No nudge is spent and the phase is one a call can leave (R35, R159). -/
def Unnudged (g : RxGroup) : Prop := g.phase ≤ 7 ∧ g.rawCnt = g.phase

/-- From one transition to the next: the first call spends the nudge, the others are a steady run of one call short of
whole bit periods, so the phase at the end is the nudged phase, with the nudge returned (R162). -/
theorem clockRun_halfWave {g : RxGroup} {k : Nat} {pol : Bool} (hpol : g.lastPol = !pol) (hg : Unnudged g)
    (hk : 1 ≤ k) :
    (clockRun (halfWave k pol) g).2.lastPol = pol ∧ Unnudged (clockRun (halfWave k pol) g).2 ∧
    (clockRun (halfWave k pol) g).2.phase.toNat = nudgePhase g.phase.toNat ∧
    (clockRun (halfWave k pol) g).1 = decisions (8 * k) (nudgePhase g.phase.toNat) := by
  obtain ⟨hp, hraw⟩ := hg
  have hfirst := clockStep_nudged (pol := pol) ⟨by simp [hpol], hraw⟩ hp
  have h6 : nudgePhase g.phase.toNat ≤ 6 := nudgePhase_le_six hp
  generalize nudgePhase g.phase.toNat = q at *
  have hundecided : (clockStep pol g).1 = false := by rw [hfirst]
  have hphase : (clockStep pol g).2.phase.toNat = q + 1 := by rw [hfirst]; bv_omega
  obtain ⟨hlast, hend, hcount, hbits⟩ :=
    clockRun_steady (8 * k - 1) (clockStep_lastPol pol g).symm (by bv_omega)
  rw [hphase] at hend hcount hbits
  rw [halfWave_eq_cons pol hk]
  have hq : (clockRun (List.replicate (8 * k - 1) pol) (clockStep pol g).2).2.phase.toNat = q := by omega
  refine ⟨hlast.trans (clockStep_lastPol pol g), ⟨?_, hcount (.inr (by omega))⟩, hq, ?_⟩
  · exact hq.trans_le (h6.trans (by decide))
  · have hlen : 8 * k = 8 * k - 1 + 1 := by omega
    rw [hlen, decisions_succ, decide_eq_false (by omega), ← hbits, ← hundecided]
    rfl

theorem nudgePhase_four_times {p : Nat} (h : p ≤ 7) : nudgePhase (nudgePhase (nudgePhase (nudgePhase p))) = 4 := by
  interval_cases p <;> rfl

/-- Settles O46: each half wave moves the phase by its transition's nudge, and four nudges reach the lock point. -/
theorem clockLocksInFourTransitions : Obligations.ClockLocksInFourTransitions := by
  refine ⟨fun g k hp hraw hk => ?_, fun g k₁ k₂ k₃ k₄ hp hraw hk₁ hk₂ hk₃ hk₄ => ?_⟩
  · obtain ⟨hlast, ⟨-, hfree⟩, hphase, hbits⟩ := clockRun_halfWave (Bool.not_not _).symm ⟨hp, hraw⟩ hk
    refine ⟨hlast, hfree, fun hlt => ?_, fun hgt => ?_, fun h4 => ?_⟩
    · rcases nudgePhase_cases g.phase.toNat with h | h | h <;> bv_omega
    · rcases nudgePhase_cases g.phase.toNat with h | h | h <;> bv_omega
    · have hlock : nudgePhase g.phase.toNat = 4 := by rw [h4]; rfl
      rw [hlock] at hphase hbits
      refine ⟨BitVec.eq_of_toNat_eq hphase, hbits.trans (List.map_congr_left fun j _ => decide_eq_decide.2 ?_)⟩
      omega
  · intro p
    have ⟨hlast₁, hg₁, hphase₁, _⟩ := clockRun_halfWave (pol := p) (Bool.not_not _).symm ⟨hp, hraw⟩ hk₁
    have ⟨hlast₂, hg₂, hphase₂, _⟩ := clockRun_halfWave (pol := !p) (by simpa using hlast₁) hg₁ hk₂
    have ⟨hlast₃, hg₃, hphase₃, _⟩ := clockRun_halfWave (pol := p) hlast₂ hg₂ hk₃
    have ⟨_, _, hphase₄, _⟩ := clockRun_halfWave (pol := !p) (by simpa using hlast₃) hg₃ hk₄
    rw [hphase₃, hphase₂, hphase₁, nudgePhase_four_times hp] at hphase₄
    rw [clockRun_append, clockRun_append, clockRun_append]
    exact BitVec.eq_of_toNat_eq hphase₄

end Sys2Proof.Machine
end

section

namespace Sys2Proof.Machine

/-! The continuous outputs (R177) -/

/-- Settles O59: the two outputs are registers, and each register is written by its owners alone (R52). -/
theorem continuousOutputsChangeOnlyInside : Obligations.ContinuousOutputsChangeOnlyInside := by
  intro i s t ht
  obtain ⟨htx, -, -, hcfg, -, -⟩ := stateIsWrittenOnlyByItsOwner i s t ht
  refine ⟨⟨rfl, rfl⟩, fun hne => htx ?_, fun hne => hcfg (.inr (.inr hne))⟩
  exact mt (congrArg TxGroup.sending) hne

/-! The words of `TXW` and of `RXR`'s result (R84, R85) -/

/-- Two fields side by side are the upper one over zeros plus the lower one widened. -/
theorem append_eq_add_setWidth {v w : Nat} (x : BitVec v) (y : BitVec w) :
    x ++ y = x ++ 0#w + y.setWidth (v + w) := by
  rw [← BitVec.append_zero_add_zero_append, BitVec.setWidth_eq_append (by omega)]
  simp

/-- The word of `TXW b` is 0x60000 with the byte in bits 7:0 (R81, R84). -/
theorem encode_txw (b : Byte) : encode (.txw b) = 0x60000 + b.setWidth 20 := by
  have hwiden : (b.setWidth 16).setWidth 20 = b.setWidth 20 := BitVec.setWidth_setWidth (by omega)
  rw [← hwiden]
  exact append_eq_add_setWidth 6#4 (b.setWidth 16)

/-- The result word of an `RXR` that returns a byte has `valid` set above it (R85). -/
theorem word_received_true (b : Byte) : (OpResult.received true b).word = 0x100 + b.setWidth 9 :=
  append_eq_add_setWidth 1#1 b

/-! The operations of the foreground (R171 to R175) -/

/-- Settles O14: the value returned is `STATUS`, of which the invariant leaves two values. -/
theorem statusReadReturnsTheWord : Obligations.StatusReadReturnsTheWord := by
  refine ⟨rfl, fun s hi => (execStrd_next s _).2 ⟨hi, rfl⟩, fun s t h ht => ?_⟩
  obtain ⟨hi, rfl⟩ := (execStrd_next s t).1 ht
  obtain ⟨-, -, h0 | h1, -⟩ := h.2 hi
  · exact .inl (by rw [h0])
  · exact .inr (by rw [h1])

/-- Settles O15: `STCL` leaves `clearStatus`, the word 0x00. -/
theorem statusClearClearsTheWord : Obligations.StatusClearClearsTheWord :=
  ⟨rfl, fun s hi => (execStcl_next s _).2 ⟨hi, rfl⟩⟩

/-- `SNDRD` completes in every initialised state (R173). -/
theorem exec_sndrd {s : State} (hi : s.initialised = true) :
    exec .sndrd s = .next { s with result := some (.sending s.tx.sending) } :=
  (execSndrd_next s _).2 ⟨hi, rfl⟩

/-- Settles O16: `TXW` leaves the transmit group alone, `sending` with it, and the instance initialised. -/
theorem sendingReadReturnsTheLevel : Obligations.SendingReadReturnsTheLevel := by
  refine ⟨rfl, fun _ hi => exec_sndrd hi, fun b s t ht => ?_⟩
  obtain ⟨hi, rfl⟩ := (execTxw_next b s t).1 ht
  exact exec_sndrd hi

/-- Settles O17: a push appends the byte when there is room and answers 0 when there is none. -/
theorem transmitWriteQueuesOrRefusesTheByte : Obligations.TransmitWriteQueuesOrRefusesTheByte :=
  ⟨fun b => (decodeInvertsEncode _ _).2 (encode_txw b),
    fun b _ hi => ⟨exec_txw_of_room b hi, exec_txw_of_full b hi⟩⟩

/-- Settles O18: a pop takes the oldest byte, or finds none. -/
theorem receiveReadTakesTheOldestByte : Obligations.ReceiveReadTakesTheOldestByte :=
  ⟨rfl, fun _ _ _ => exec_rxr_cons, fun _ => exec_rxr_nil, word_received_true, rfl⟩

end Sys2Proof.Machine
end

section

namespace Sys2Proof.Machine

open Safety

/-! Stepping with nothing issued (R203) -/

theorem step_of_pending_nil {s : State} (hp : s.pending = []) : step s = .next s := by
  simp only [step, fetchWord, hp]

/-- Settles O6: there is no word to fetch. -/
theorem nothingIssuedNothingChanges : Obligations.NothingIssuedNothingChanges :=
  fun _ => step_of_pending_nil

/-! Legal words are those that decode (R90) -/

/-- The must-be-zero bits of formats S and B, as a field and as a shift (R83, R84). -/
theorem extractLsb'_high_eq_zero_iff (operand : BitVec 16) :
    operand.extractLsb' 8 8 = 0#8 ↔ operand >>> 8 = 0#16 := by
  simp only [← BitVec.toNat_inj, BitVec.extractLsb'_toNat, BitVec.toNat_ushiftRight, BitVec.toNat_ofNat,
    Nat.shiftRight_eq_div_pow]
  have := operand.isLt
  omega

/-- Legality by format and R90's condition by operation code name the same words. -/
theorem legalWord_iff_not_reservedFields (w : OpWord) :
    legalWord w = true ↔ ¬ ReservedFields (opField w) (operandField w) := by
  unfold legalWord formatOf ReservedFields
  by_cases h8 : opField w < 8#4
  · by_cases h1 : opField w = 1#4
    · simp [h1, mustBeZeroClear, extractLsb'_high_eq_zero_iff]
    · by_cases h6 : opField w = 6#4
      · simp [h6, mustBeZeroClear, extractLsb'_high_eq_zero_iff]
      · simp [h8, h1, h6, mustBeZeroClear]
  · simp [h8]

theorem legalWord_iff_exists_decode (w : OpWord) : legalWord w = true ↔ ∃ i, decode w = .ok i :=
  (legalWord_iff_not_reservedFields w).trans (exists_decode_ok_iff w).symm

/-! What a completed operation returns (R85) -/

/-- No operation touches the words pending behind it, and each returns a result of its own kind. -/
theorem exec_pending_and_resultFits {i : Instr} {s t : State} (ht : exec i s = .next t) :
    t.pending = s.pending ∧ resultFits i t.result = true := by
  cases i with
  | init =>
    obtain rfl := (execInit_next s t).1 ht
    exact ⟨rfl, rfl⟩
  | rxs x =>
    obtain ⟨-, rfl⟩ := (execRxs_next x s t).1 ht
    exact ⟨rfl, rfl⟩
  | txs =>
    obtain ⟨-, rfl⟩ := (execTxs_next s t).1 ht
    exact ⟨rfl, rfl⟩
  | strd =>
    obtain ⟨-, rfl⟩ := (execStrd_next s t).1 ht
    exact ⟨rfl, rfl⟩
  | stcl =>
    obtain ⟨-, rfl⟩ := (execStcl_next s t).1 ht
    exact ⟨rfl, rfl⟩
  | sndrd =>
    obtain ⟨-, rfl⟩ := (execSndrd_next s t).1 ht
    exact ⟨rfl, rfl⟩
  | txw b =>
    obtain ⟨-, rfl⟩ := (execTxw_next b s t).1 ht
    exact ⟨rfl, rfl⟩
  | rxr =>
    obtain ⟨-, ⟨b, rest, _, rfl⟩ | ⟨_, rfl⟩⟩ := (execRxr_next s t).1 ht
    · exact ⟨rfl, rfl⟩
    · exact ⟨rfl, rfl⟩

/-- Settles O9: a legal word decodes, and the operation it names completes on the state without the word. -/
theorem everyLegalWordCompletes : Obligations.EveryLegalWordCompletes := by
  intro s w rest hi hp hlegal
  obtain ⟨i, hd⟩ := (legalWord_iff_exists_decode w).1 hlegal
  obtain ⟨t, ht, hi'⟩ := exec_completes i (s := { s with pending := rest }) hi
  obtain ⟨hpending, hresult⟩ := exec_pending_and_resultFits ht
  exact ⟨i, t, hd, (stepRunsDecodedOperation s w rest i hp hd).trans ht, hi', hpending, hresult⟩

end Sys2Proof.Machine
end

section

namespace Sys2Proof.Machine

/-! The receive overrun (R112, R187, R188) -/

theorem setOvr_getLsbD_zero (status : BitVec 8) : (setOvr status).getLsbD 0 = true := by
  simp [setOvr]

/-- `STATUS` changes only when the queue is full, and the queue then stays as it is (R112). -/
theorem QueueStep.of_status_ne {cap : Nat} {r r' : RxSide} (h : QueueStep cap r r') (hne : r'.status ≠ r.status) :
    r'.status = setOvr r.status ∧ cap ≤ r.rxq.length ∧ r'.rxq = r.rxq := by
  rcases h with ⟨hs, _⟩ | ⟨hs, _⟩ | h
  · exact absurd hs hne
  · exact absurd hs hne
  · exact h

theorem QueueStep.ovr_sticky {cap : Nat} {r r' : RxSide} (h : QueueStep cap r r')
    (hset : r.status.getLsbD 0 = true) : r'.status.getLsbD 0 = true := by
  by_cases hsame : r'.status = r.status
  · rwa [hsame]
  · obtain ⟨hstatus, -⟩ := h.of_status_ne hsame
    rw [hstatus]
    exact setOvr_getLsbD_zero r.status

theorem keepBit_bitCnt_of_status_ne {p : Params} {b : Bool} {r : RxSide} (hne : (keepBit p b r).status ≠ r.status) :
    (keepBit p b r).rx.bitCnt = 0 := by
  rcases keepBit_cases p b r with ⟨_, he⟩ | ⟨_, _, he⟩ | ⟨_, _, he⟩ <;> rw [he] at hne ⊢
  · exact absurd rfl hne
  · exact absurd rfl hne
  · rw [completeByte_rx]

theorem hdlcRxBit_bitCnt_of_status_ne {p : Params} {b : Bool} {r : RxSide}
    (hne : (hdlcRxBit p b r).status ≠ r.status) : (hdlcRxBit p b r).rx.bitCnt = 0 := by
  rcases hdlcRxBit_cases p b r with ⟨_, _, he⟩ | ⟨_, _, he⟩ | ⟨_, _, he⟩ | ⟨_, _, he⟩ | ⟨_, _, _, he⟩
  · rw [he]
  · rw [he]
  · exact absurd (by rw [he]) hne
  · rw [he] at hne ⊢
    exact keepBit_bitCnt_of_status_ne hne
  · rw [he] at hne ⊢
    exact keepBit_bitCnt_of_status_ne hne

/-- An `RXS` that changes `STATUS` has decided a bit, the last of a byte (R111, R112). -/
theorem rxSideStep_of_status_ne {p : Params} {x : Sample} {r : RxSide} (hne : (rxSideStep p x r).status ≠ r.status) :
    (rxSideStep p x r).rx.rawCnt = 0 ∧ (rxSideStep p x r).rx.bitCnt = 0 := by
  obtain ⟨-, -, hraw⟩ := rxSideStep_clock p x r
  rw [hraw]
  rcases rxSideStep_cases p x r with ⟨_, he⟩ | ⟨hdecided, he⟩ <;> rw [he] at hne ⊢
  · exact absurd rfl hne
  · exact ⟨clockStep_rawCnt_of_decided hdecided, hdlcRxBit_bitCnt_of_status_ne hne⟩

/-- Settles O54: only `RXS`, `STCL` and `INIT` write `STATUS`, and of these only `RXS` can set the bit. -/
theorem overrunIsStickyAndOnlyFromRxs : Obligations.OverrunIsStickyAndOnlyFromRxs := by
  intro i s t _ ht
  obtain ⟨-, -, howner, -⟩ := stateIsWrittenOnlyByItsOwner i s t ht
  constructor
  · intro hset hstcl hinit
    by_cases hsame : t.status = s.status
    · rwa [hsame]
    · obtain ⟨x, rfl⟩ := (howner hsame).resolve_right (not_or.2 ⟨hstcl, hinit⟩)
      obtain ⟨-, rfl⟩ := (execRxs_next x s t).1 ht
      exact (rxSideStep_queueStep s.params x s.rxSide).ovr_sticky hset
  · intro hclear hset
    have hne : t.status ≠ s.status := fun h => by
      rw [h, hclear] at hset
      cases hset
    rcases howner hne with ⟨x, rfl⟩ | rfl | rfl
    · obtain ⟨-, rfl⟩ := (execRxs_next x s t).1 ht
      obtain ⟨-, hfull, hq⟩ := (rxSideStep_queueStep s.params x s.rxSide).of_status_ne hne
      obtain ⟨hraw, hbit⟩ := rxSideStep_of_status_ne hne
      exact ⟨x, rfl, hraw, hbit, hfull, hq⟩
    · obtain ⟨-, rfl⟩ := (execStcl_next s t).1 ht
      simp [clearStatus] at hset
    · obtain rfl := (execInit_next s t).1 ht
      simp at hset

/-! The two paths (R199) -/

/-- Settles O57: the side an operation replaces is a function of what the two states agree on. -/
theorem theTwoPathsAreIndependent : Obligations.TheTwoPathsAreIndependent := by
  constructor
  · intro x s s' t t' hp hrx hstatus hrxq ht ht'
    obtain ⟨-, rfl⟩ := (execRxs_next x s t).1 ht
    obtain ⟨-, rfl⟩ := (execRxs_next x s' t').1 ht'
    have hside : s.rxSide = s'.rxSide := by simp only [State.rxSide, hrx, hstatus, hrxq]
    have hstep : rxSideStep s.params x s.rxSide = rxSideStep s'.params x s'.rxSide := by rw [hp, hside]
    exact ⟨congrArg RxSide.rx hstep, congrArg RxSide.status hstep, congrArg RxSide.rxq hstep⟩
  · intro s s' t t' horder hpreamble htail htx htxq ht ht'
    obtain ⟨-, rfl⟩ := (execTxs_next s t).1 ht
    obtain ⟨-, rfl⟩ := (execTxs_next s' t').1 ht'
    have hconfig : s.txConfig = s'.txConfig := by simp only [State.txConfig, horder, hpreamble, htail]
    have hside : s.txSide = s'.txSide := by simp only [State.txSide, htx, htxq]
    have hstep : txSideStep s.txConfig s.txSide = txSideStep s'.txConfig s'.txSide := by rw [hconfig, hside]
    exact ⟨congrArg (·.1.tx) hstep, congrArg (·.1.txq) hstep, congrArg (some ∘ OpResult.sample ∘ Prod.snd) hstep⟩

end Sys2Proof.Machine
end

section

namespace Sys2Proof.Machine

/-! Before the first `INIT` (R206) -/

/-- An instance that has never executed `INIT` refuses every other operation (R186, R206). -/
theorem exec_of_not_initialised {i : Instr} {s : State} (hs : s.initialised = false) (hi : i ≠ .init) :
    exec i s = .refused .notInitialised := by
  cases i with
  | init => exact absurd rfl hi
  | rxr =>
    simp only [exec, execRxr]
    split <;> exact whenInitialised_of_false _ hs
  | _ => exact whenInitialised_of_false _ hs

/-- Settles O8: every meaning but that of `INIT` asks for the ghost bit, which `INIT` sets. -/
theorem onlyInitRunsBeforeInit : Obligations.OnlyInitRunsBeforeInit :=
  fun _ s hs => ⟨exec_of_not_initialised hs, _, (execInit_next s _).2 rfl, rfl⟩

/-! What `INIT` leaves (R205, R207, R225) -/

/-- Settles O10: the two reset groups are R50's table. -/
theorem initResetsEveryRegister : Obligations.InitResetsEveryRegister :=
  fun s => (execInit_next s _).2 rfl

/-- Settles O11: what `INIT` writes depends on the straps alone, and it keeps these. -/
theorem resetStateIsWhatInitLeaves : Obligations.ResetStateIsWhatInitLeaves := by
  refine ⟨(execInit_next State.reset _).2 rfl, fun s t ht => ?_⟩
  obtain rfl := (execInit_next s t).1 ht
  exact (execInit_next _ _).2 rfl

/-! What an instance is given from outside (R7, R8, R208). Every operation but `INIT` and `RXR` is one
`whenInitialised`; `RXR` is one of two, by the queue it finds. -/

/-- An operation other than `INIT` that completes does the same under other straps. -/
theorem exec_setStraps {i : Instr} {s t : State} (st : Straps) (hi : i ≠ .init) (ht : exec i s = .next t) :
    exec i (s.setStraps st) = .next (t.setStraps st) := by
  cases i with
  | init => exact absurd rfl hi
  | rxr =>
    obtain ⟨h, ⟨b, rest, hq, rfl⟩ | ⟨hq, rfl⟩⟩ := (execRxr_next s t).1 ht
    · exact (execRxr_next _ _).2 ⟨h, .inl ⟨b, rest, hq, rfl⟩⟩
    · exact (execRxr_next _ _).2 ⟨h, .inr ⟨hq, rfl⟩⟩
  | _ =>
    obtain ⟨h, rfl⟩ := (whenInitialised_next_iff ..).1 ht
    exact (whenInitialised_next_iff ..).2 ⟨h, rfl⟩

/-- No operation writes an open parameter or a strap. -/
theorem exec_params_straps {i : Instr} {s t : State} (ht : exec i s = .next t) :
    t.params = s.params ∧ t.straps = s.straps := by
  cases i with
  | init =>
    obtain rfl := (execInit_next s t).1 ht
    exact ⟨rfl, rfl⟩
  | rxr => obtain ⟨-, ⟨_, _, _, rfl⟩ | ⟨_, rfl⟩⟩ := (execRxr_next s t).1 ht <;> exact ⟨rfl, rfl⟩
  | _ =>
    obtain ⟨-, rfl⟩ := (whenInitialised_next_iff ..).1 ht
    exact ⟨rfl, rfl⟩

/-- Settles O58: only `INIT` reads the straps, and each operation keeps what is given from outside. -/
theorem strapsAreReadOnlyByInit : Obligations.StrapsAreReadOnlyByInit := by
  refine ⟨fun _ _ _ st => exec_setStraps st, fun s st => ?_, fun i s t ht => ?_⟩
  · exact ⟨_, initResetsEveryRegister (s.setStraps st), rfl, rfl, rfl⟩
  · obtain ⟨hparams, hstraps⟩ := exec_params_straps ht
    obtain ⟨hpending, -⟩ := exec_pending_and_resultFits ht
    exact ⟨hparams, hstraps, hpending⟩

end Sys2Proof.Machine
end
